-- ==== Sys2Proof/Word.lean ====
section
/-! DEFINITION. The word types of CORE: command and response words, bytes, physical values, the device bus
address (`spec/00_scope.md` R5, R6, R7). -/

namespace Sys2Proof

/-- A command word or a response word, CMD_W = RSP_W = 32 bits (R5, R80, R86). -/
abbrev Word := BitVec 32

/-- A register value, a register address, a mask or the transport's error information: 8 bits (R5, R7). -/
abbrev Byte := BitVec 8

/-- A physical value in millivolts or milliamperes, PHYS_W = 16 bits, unsigned (R5, R7); also a response's payload. -/
abbrev Phys := BitVec 16

/-- The device's bus address, DEVADDR_W = 7 bits (R5, R45). -/
abbrev DevAddr := BitVec 7

end Sys2Proof
end

