-- ==== Sys2Proof/Config.lean ====
section
/-! DEFINITION. What an instance of CORE is configured with (`spec/10_state.md` R30 to R38, R45; the open
parameters of `spec/92_eei_decisions.md` section 2), the names that index the constant tables, and the free
values. The configuration is one argument of the model, carried in State as a field no step changes (log 1). -/

namespace Sys2Proof

/-- The four scaled fields, in the order of their index s (R31). -/
inductive ScaledField where
  | vbat    -- battery voltage limit
  | ichg    -- charge current limit
  | vindpm  -- input voltage limit
  | iindpm  -- input current limit
deriving DecidableEq, Repr

/-- The six descriptor sets, in the order of their index k (R34). -/
inductive FlagSet where
  | intStat
  | fltStat
  | intFlag
  | fltFlag
  | intMask
  | fltMask
deriving DecidableEq, Repr

/-- The two state tables, in the order of their index t (R36, R37). -/
inductive TableId where
  | chgStat
  | wdTimeout
deriving DecidableEq, Repr

/-- A field descriptor `F[s]` (R15, R31): `lsb`, `off`, `min` and `max` in millivolts or milliamperes. -/
structure FieldDesc where
  addr : Byte
  lsb  : Nat
  off  : Nat
  min  : Nat
  max  : Nat
deriving DecidableEq, Repr

/-- A bit-flag descriptor `(mask, name)` (R15, R33). -/
structure FlagDesc where
  mask : Byte
  name : String
deriving DecidableEq, Repr

/-- An entry `(pat, name)` of a state table (R15, R35); the pattern is in place. -/
structure StateEntry where
  pat  : Byte
  name : String
deriving DecidableEq, Repr

/-- A state table `TBL[t]` (R15, R35). -/
structure StateTable where
  mask    : Byte
  ent     : List StateEntry
  unknown : String
deriving DecidableEq, Repr

/-- Every open parameter of CORE (R5, R30; `spec/92_eei_decisions.md` section 2). What the spec fixes (the steps,
offsets and bounds of R31, CS_CV_PAT and the names of TBL[0], TBL[1].mask = WD_MASK) is no field: see
`Machine/Operands.lean`. -/
structure Config where
  /-- DEV_ADDR (R45). -/
  devAddr : DevAddr
  /-- FADDR[0] (R31). -/
  faddrVbat : Byte
  /-- FADDR[1] (R31). -/
  faddrIchg : Byte
  /-- FADDR[2] (R31). -/
  faddrVindpm : Byte
  /-- FADDR[3] (R31). -/
  faddrIindpm : Byte
  /-- DS[0] (R34). -/
  dsIntStat : List FlagDesc
  /-- DS[1] (R34). -/
  dsFltStat : List FlagDesc
  /-- DS[2] (R34). -/
  dsIntFlag : List FlagDesc
  /-- DS[3] (R34). -/
  dsFltFlag : List FlagDesc
  /-- DS[4] (R34). -/
  dsIntMask : List FlagDesc
  /-- DS[5] (R34). -/
  dsFltMask : List FlagDesc
  /-- CS_MASK, the mask of TBL[0] (R36). -/
  csMask : Byte
  /-- CS_CC_PAT, the constant-current pattern of TBL[0] (R36). -/
  csCcPat : Byte
  /-- The entries of TBL[1] (R37). -/
  wdEnt : List StateEntry
  /-- The unknown name of TBL[1] (R37). -/
  wdUnknown : String
  /-- CHG_ADDR (R38). -/
  chgAddr : Byte
  /-- CHG_EN_MASK (R38). -/
  chgEnMask : Byte
  /-- WD_ADDR (R38). -/
  wdAddr : Byte
  /-- WD_MASK (R37, R38). -/
  wdMask : Byte
  /-- WD_OFF_CODE, in place (R38). -/
  wdOffCode : Byte
  /-- RST_ADDR (R38). -/
  rstAddr : Byte
  /-- RST_MASK (R38). -/
  rstMask : Byte
  /-- INT_STAT_ADDR (R38). -/
  intStatAddr : Byte
  /-- FLT_STAT_ADDR (R38). -/
  fltStatAddr : Byte
  /-- INT_FLAG_ADDR (R38). -/
  intFlagAddr : Byte
  /-- FLT_FLAG_ADDR (R38). -/
  fltFlagAddr : Byte
deriving DecidableEq, Repr

/-- The free value a 32-bit latch takes at a reset in a run (R240: "CMD, LAT, VLAT and EINFO become unspecified (any
value ...)"; log 5). Nothing constrains it. -/
opaque Config.freeWord : Nat → Word

/-- The free value an 8-bit latch takes at a reset in a run (R240; log 5). Nothing constrains it. -/
opaque Config.freeByte : Nat → Byte

end Sys2Proof
end

