-- ==== Sys2Proof/Syntax.lean ====
section
/-! DEFINITION. The 23 commands of CORE (`spec/30_encoding.md` R84) with the operands of their formats (R81, R82, R83).
The two rows of DFL in `spec/opcode_table.json` are one constructor: they are one command whose legal selectors are
not one bit pattern (R84). -/

namespace Sys2Proof

/-- A command of CORE. Field, set and table selectors are names (R83); addresses, masks, values and raw bytes are the
8-bit fields as they stand; a physical value is 16 bits (R82). -/
inductive Instr where
  /-- `ENC field, p` (R110). -/
  | enc (f : ScaledField) (p : Phys)
  /-- `DEC field, raw` (R111). -/
  | dec (f : ScaledField) (raw : Byte)
  /-- `RDB addr` (R132). -/
  | rdb (a : Byte)
  /-- `WRB addr, value` (R133). -/
  | wrb (a v : Byte)
  /-- `RMO addr, mask` (R134). -/
  | rmo (a m : Byte)
  /-- `RMC addr, mask` (R135). -/
  | rmc (a m : Byte)
  /-- `WBF addr, mask, value` (R136). -/
  | wbf (a m v : Byte)
  /-- `RMOV addr, mask` (R137). -/
  | rmov (a m : Byte)
  /-- `DFL set, raw` (R160). -/
  | dfl (k : FlagSet) (raw : Byte)
  /-- `DMS table, raw` (R165). -/
  | dms (t : TableId) (raw : Byte)
  /-- `SET_VBAT p` (R181). -/
  | setVbat (p : Phys)
  /-- `SET_ICHG p` (R182). -/
  | setIchg (p : Phys)
  /-- `SET_VINDPM p` (R183). -/
  | setVindpm (p : Phys)
  /-- `SET_IINDPM p` (R184). -/
  | setIindpm (p : Phys)
  /-- `CHG_EN` (R186). -/
  | chgEn
  /-- `CHG_DIS` (R187). -/
  | chgDis
  /-- `WD_DIS` (R188). -/
  | wdDis
  /-- `REG_RST` (R189). -/
  | regRst
  /-- `GET_CHG_STAT` (R195). -/
  | getChgStat
  /-- `GET_INT_STAT` (R196). -/
  | getIntStat
  /-- `GET_FLT_STAT` (R197). -/
  | getFltStat
  /-- `GET_INT_FLAG` (R198). -/
  | getIntFlag
  /-- `GET_FLT_FLAG` (R199). -/
  | getFltFlag
deriving DecidableEq, Repr

end Sys2Proof
end

