-- ==== Sys2Proof/WellFormed.lean ====
section
/-! DEFINITION. What is well formed: the five fields of a command word (`spec/30_encoding.md` R80, R81, R83, R85, R92),
a field descriptor (`spec/10_state.md` R32) and a configuration (R33, R35 to R38). A term of `Instr` needs no check:
its operands' types admit exactly the values R82 and R83 admit. -/

namespace Sys2Proof

/-- The five fields of a command word (R80). -/
@[ext]
structure RawCmd where
  op  : BitVec 5
  sel : BitVec 3
  a   : Byte
  b   : Byte
  c   : Byte
deriving DecidableEq, Repr

/-- The operation code is one R84 assigns: 0x01 to 0x0A, 0x10 to 0x14, 0x18 to 0x1C. -/
def RawCmd.opAssigned (r : RawCmd) : Bool :=
  (1 ≤ r.op.toNat && r.op.toNat ≤ 0x0A) || (0x10 ≤ r.op.toNat && r.op.toNat ≤ 0x14) ||
    (0x18 ≤ r.op.toNat && r.op.toNat ≤ 0x1C)

/-- The selector is in range for the operation (R83): 0 to 3 for ENC, DEC and SET, 0 to 5 for DFL, 0 and 1 for DMS,
0 in every other command. -/
def RawCmd.selInRange (r : RawCmd) : Bool :=
  match r.op.toNat with
  | 0x01 | 0x02 | 0x10 => r.sel.toNat ≤ 3
  | 0x09               => r.sel.toNat ≤ 5
  | 0x0A               => r.sel.toNat ≤ 1
  | _                  => r.sel == 0

/-- Every field the command's format does not list is 0 (R81, R85). -/
def RawCmd.unusedZero (r : RawCmd) : Bool :=
  match r.op.toNat with
  | 0x01 | 0x10               => r.a == 0                          -- format P
  | 0x02 | 0x09 | 0x0A | 0x03 => r.b == 0 && r.c == 0              -- formats R and A
  | 0x04                      => r.b == 0                          -- format AV
  | 0x05 | 0x06 | 0x08        => r.c == 0                          -- format AM
  | 0x07                      => true                              -- format AMV
  | _                         => r.a == 0 && r.b == 0 && r.c == 0  -- format Z

/-- The fields make a command: none of the three reasons of R92 for an illegal word holds. -/
def RawCmd.wellFormed (r : RawCmd) : Bool :=
  r.opAssigned && r.selInRange && r.unusedZero

/-- A field descriptor is well formed (R32); its address is a byte by its type. -/
def FieldDesc.wellFormed (d : FieldDesc) : Bool :=
  decide (1 ≤ d.lsb ∧ d.off ≤ d.min ∧ d.min ≤ d.max ∧ d.max ≤ 65535 ∧
    Int.fdiv ((d.max : Int) - d.off) d.lsb ≤ 255 ∧ 255 * d.lsb + d.off ≤ 65535)

/-- NDESC_MAX (R5, R33). -/
def ndescMax : Nat := 16

/-- NENT_MAX (R5, R35). -/
def nentMax : Nat := 15

/-- Two descriptors of one set may stand together: neither mask is fully set in the other, and the names differ (R33). -/
def FlagDesc.apart (d e : FlagDesc) : Bool :=
  (e.mask &&& d.mask) != d.mask && (d.mask &&& e.mask) != e.mask && d.name != e.name

/-- A descriptor set is well formed (R33). -/
def flagSetWellFormed (ds : List FlagDesc) : Bool :=
  decide (ds.length ≤ ndescMax) && ds.all (fun d => d.mask != 0) &&
    decide (ds.Pairwise fun d e => d.apart e = true)

/-- A state table is well formed (R35). -/
def StateTable.wellFormed (t : StateTable) : Bool :=
  decide (t.ent.length ≤ nentMax) && t.ent.all (fun e => (e.pat &&& ~~~t.mask) == 0) &&
    decide (t.ent.Pairwise fun e f => e.name ≠ f.name)

/-- The number of 1 bits of a byte (R8). -/
def popcount (m : Byte) : Nat :=
  (m.getLsbD 0).toNat + (m.getLsbD 1).toNat + (m.getLsbD 2).toNat + (m.getLsbD 3).toNat +
    (m.getLsbD 4).toNat + (m.getLsbD 5).toNat + (m.getLsbD 6).toNat + (m.getLsbD 7).toNat

/-- The charge status parameters are admissible (R36). -/
def Config.chargeStatusWellFormed (g : Config) : Bool :=
  popcount g.csMask == 2 && (g.csMask &&& 0x04) == 0x04 && (g.csCcPat &&& ~~~g.csMask) == 0 &&
    g.csCcPat != 0x00 && g.csCcPat != 0x04

/-- The watchdog timeout table and the control constants are admissible (R37, R38). -/
def Config.controlWellFormed (g : Config) : Bool :=
  popcount g.wdMask == 2 && (g.wdOffCode &&& ~~~g.wdMask) == 0 && popcount g.chgEnMask == 1 && g.rstMask != 0 &&
    (StateTable.mk g.wdMask g.wdEnt g.wdUnknown).wellFormed

/-- All six descriptor sets are well formed (R33, R34). -/
def Config.flagSetsWellFormed (g : Config) : Bool :=
  flagSetWellFormed g.dsIntStat && flagSetWellFormed g.dsFltStat && flagSetWellFormed g.dsIntFlag &&
    flagSetWellFormed g.dsFltFlag && flagSetWellFormed g.dsIntMask && flagSetWellFormed g.dsFltMask

/-- The configuration is well formed (R33, R35 to R38). The field descriptors of R31 are constants that meet R32
whatever their addresses are, so no field of the configuration can break R32. -/
def Config.wellFormed (g : Config) : Bool :=
  g.flagSetsWellFormed && g.chargeStatusWellFormed && g.controlWellFormed

end Sys2Proof
end

