-- ==== Sys2Proof/Decode.lean ====
section
/-! DEFINITION. The decoder of command words, total on all 2^32 words, and after it the encoder
(`spec/30_encoding.md` R80 to R85, R92, R95). The decoder follows R95: the row of the opcode table whose match and
mask the word meets, then the fields of its format. -/

namespace Sys2Proof

/-- The word `{op, sel, a, b, c}` (R80). -/
def RawCmd.toWord (r : RawCmd) : Word :=
  r.op ++ r.sel ++ r.a ++ r.b ++ r.c

/-- The fields of a word (R80): op 31:27, sel 26:24, a 23:16, b 15:8, c 7:0. -/
def RawCmd.ofWord (w : Word) : RawCmd where
  op  := w.extractLsb' 27 5
  sel := w.extractLsb' 24 3
  a   := w.extractLsb' 16 8
  b   := w.extractLsb' 8 8
  c   := w.extractLsb' 0 8

/-- The physical value of format P, `p = {b, c}` (R81, R82). -/
def RawCmd.phys (r : RawCmd) : Phys := r.b ++ r.c

/-- The selector of a scaled field (R83). -/
def ScaledField.sel : ScaledField → BitVec 3
  | .vbat => 0 | .ichg => 1 | .vindpm => 2 | .iindpm => 3

/-- The scaled field a selector names; 4 to 7 name none (R83). -/
def ScaledField.ofSel? (x : BitVec 3) : Option ScaledField :=
  match x.toNat with
  | 0 => some .vbat | 1 => some .ichg | 2 => some .vindpm | 3 => some .iindpm | _ => none

/-- The selector of a descriptor set (R83). -/
def FlagSet.sel : FlagSet → BitVec 3
  | .intStat => 0 | .fltStat => 1 | .intFlag => 2 | .fltFlag => 3 | .intMask => 4 | .fltMask => 5

/-- The descriptor set a selector names; 6 and 7 name none (R83). -/
def FlagSet.ofSel? (x : BitVec 3) : Option FlagSet :=
  match x.toNat with
  | 0 => some .intStat | 1 => some .fltStat | 2 => some .intFlag | 3 => some .fltFlag
  | 4 => some .intMask | 5 => some .fltMask | _ => none

/-- The selector of a state table (R83). -/
def TableId.sel : TableId → BitVec 3
  | .chgStat => 0 | .wdTimeout => 1

/-- The state table a selector names; 2 to 7 name none (R83). -/
def TableId.ofSel? (x : BitVec 3) : Option TableId :=
  match x.toNat with
  | 0 => some .chgStat | 1 => some .wdTimeout | _ => none

/-- A row of the opcode table: a word `w` is the row's command exactly when `(w & mask) == match` (R84); `build` reads
the operands of the row's format. -/
structure OpcodeRow where
  pattern : Word
  mask    : Word
  build   : RawCmd → Option Instr

/-- The word meets the row (R84). -/
def OpcodeRow.accepts (row : OpcodeRow) (w : Word) : Bool :=
  (w &&& row.mask) == row.pattern

/-- The rows of the primitives, op 0x01 to 0x0A (R84). -/
def primitiveRows : List OpcodeRow :=
  [ ⟨0x08000000, 0xFCFF0000, fun r => (ScaledField.ofSel? r.sel).map (Instr.enc · r.phys)⟩,
    ⟨0x10000000, 0xFC00FFFF, fun r => (ScaledField.ofSel? r.sel).map (Instr.dec · r.a)⟩,
    ⟨0x18000000, 0xFF00FFFF, fun r => some (.rdb r.a)⟩,
    ⟨0x20000000, 0xFF00FF00, fun r => some (.wrb r.a r.c)⟩,
    ⟨0x28000000, 0xFF0000FF, fun r => some (.rmo r.a r.b)⟩,
    ⟨0x30000000, 0xFF0000FF, fun r => some (.rmc r.a r.b)⟩,
    ⟨0x38000000, 0xFF000000, fun r => some (.wbf r.a r.b r.c)⟩,
    ⟨0x40000000, 0xFF0000FF, fun r => some (.rmov r.a r.b)⟩,
    ⟨0x48000000, 0xFC00FFFF, fun r => (FlagSet.ofSel? r.sel).map (Instr.dfl · r.a)⟩,
    ⟨0x4C000000, 0xFE00FFFF, fun r => (FlagSet.ofSel? r.sel).map (Instr.dfl · r.a)⟩,
    ⟨0x50000000, 0xFE00FFFF, fun r => (TableId.ofSel? r.sel).map (Instr.dms · r.a)⟩ ]

/-- The rows of the composites that write, op 0x10 to 0x14 (R84). -/
def writingCompositeRows : List OpcodeRow :=
  [ ⟨0x80000000, 0xFFFF0000, fun r => some (.setVbat r.phys)⟩,
    ⟨0x81000000, 0xFFFF0000, fun r => some (.setIchg r.phys)⟩,
    ⟨0x82000000, 0xFFFF0000, fun r => some (.setVindpm r.phys)⟩,
    ⟨0x83000000, 0xFFFF0000, fun r => some (.setIindpm r.phys)⟩,
    ⟨0x88000000, 0xFFFFFFFF, fun _ => some .chgEn⟩,
    ⟨0x90000000, 0xFFFFFFFF, fun _ => some .chgDis⟩,
    ⟨0x98000000, 0xFFFFFFFF, fun _ => some .wdDis⟩,
    ⟨0xA0000000, 0xFFFFFFFF, fun _ => some .regRst⟩ ]

/-- The rows of the composites that read, op 0x18 to 0x1C (R84). -/
def readingCompositeRows : List OpcodeRow :=
  [ ⟨0xC0000000, 0xFFFFFFFF, fun _ => some .getChgStat⟩,
    ⟨0xC8000000, 0xFFFFFFFF, fun _ => some .getIntStat⟩,
    ⟨0xD0000000, 0xFFFFFFFF, fun _ => some .getFltStat⟩,
    ⟨0xD8000000, 0xFFFFFFFF, fun _ => some .getIntFlag⟩,
    ⟨0xE0000000, 0xFFFFFFFF, fun _ => some .getFltFlag⟩ ]

/-- The opcode table, 24 rows for 23 commands (R84). -/
def opcodeRows : List OpcodeRow :=
  primitiveRows ++ writingCompositeRows ++ readingCompositeRows

/-- The command a word is, or none for an illegal word (R92, R95). -/
def decode (w : Word) : Option Instr :=
  (opcodeRows.find? (·.accepts w)).bind (·.build (RawCmd.ofWord w))

/-! The encoder, written from the formats of R81 and the operation codes of R84. -/

/-- The operation code of a command (R84). -/
def Instr.op : Instr → BitVec 5
  | .enc _ _ => 0x01 | .dec _ _ => 0x02 | .rdb _ => 0x03 | .wrb _ _ => 0x04 | .rmo _ _ => 0x05 | .rmc _ _ => 0x06
  | .wbf _ _ _ => 0x07 | .rmov _ _ => 0x08 | .dfl _ _ => 0x09 | .dms _ _ => 0x0A
  | .setVbat _ => 0x10 | .setIchg _ => 0x10 | .setVindpm _ => 0x10 | .setIindpm _ => 0x10
  | .chgEn => 0x11 | .chgDis => 0x12 | .wdDis => 0x13 | .regRst => 0x14
  | .getChgStat => 0x18 | .getIntStat => 0x19 | .getFltStat => 0x1A | .getIntFlag => 0x1B | .getFltFlag => 0x1C

/-- The high byte of a physical value, the field `b` of format P (R80, R82). -/
def physHigh (p : Phys) : Byte := p.extractLsb' 8 8

/-- The low byte of a physical value, the field `c` of format P (R80, R82). -/
def physLow (p : Phys) : Byte := p.extractLsb' 0 8

/-- The fields of a command's word; a field its format does not list is 0 (R81, R85). -/
def Instr.fields (i : Instr) : RawCmd :=
  match i with
  | .enc f p      => ⟨i.op, f.sel, 0, physHigh p, physLow p⟩
  | .dec f raw    => ⟨i.op, f.sel, raw, 0, 0⟩
  | .rdb a        => ⟨i.op, 0, a, 0, 0⟩
  | .wrb a v      => ⟨i.op, 0, a, 0, v⟩
  | .rmo a m      => ⟨i.op, 0, a, m, 0⟩
  | .rmc a m      => ⟨i.op, 0, a, m, 0⟩
  | .wbf a m v    => ⟨i.op, 0, a, m, v⟩
  | .rmov a m     => ⟨i.op, 0, a, m, 0⟩
  | .dfl k raw    => ⟨i.op, k.sel, raw, 0, 0⟩
  | .dms t raw    => ⟨i.op, t.sel, raw, 0, 0⟩
  | .setVbat p    => ⟨i.op, 0, 0, physHigh p, physLow p⟩
  | .setIchg p    => ⟨i.op, 1, 0, physHigh p, physLow p⟩
  | .setVindpm p  => ⟨i.op, 2, 0, physHigh p, physLow p⟩
  | .setIindpm p  => ⟨i.op, 3, 0, physHigh p, physLow p⟩
  | .chgEn        => ⟨i.op, 0, 0, 0, 0⟩
  | .chgDis       => ⟨i.op, 0, 0, 0, 0⟩
  | .wdDis        => ⟨i.op, 0, 0, 0, 0⟩
  | .regRst       => ⟨i.op, 0, 0, 0, 0⟩
  | .getChgStat   => ⟨i.op, 0, 0, 0, 0⟩
  | .getIntStat   => ⟨i.op, 0, 0, 0, 0⟩
  | .getFltStat   => ⟨i.op, 0, 0, 0, 0⟩
  | .getIntFlag   => ⟨i.op, 0, 0, 0, 0⟩
  | .getFltFlag   => ⟨i.op, 0, 0, 0, 0⟩

/-- The word of a command (R80). -/
def encode (i : Instr) : Word := i.fields.toWord

/-- The word the opcode table's bits give: the table's rows are 32 bits, numbered as the command word is (R6, R80), and
a command word travels whole on the port, so no byte order arises (R59; log 18). Bits above `nbits` are 0. -/
def tableWord (nbits w : Nat) : Word := BitVec.ofNat 32 (w % 2 ^ nbits)

/-- The command the decoder reads from a row's word. -/
def decodeTableWord (nbits w : Nat) : Option Instr := decode (tableWord nbits w)

end Sys2Proof
end

