-- ==== Sys2Proof/Machine/RefConfig.lean ====
section
/-! DEFINITION. REFCFG, the reference configuration (`spec/10_state.md` R42). It is the spec's own choice, for tests
only: "no claim that is meant to hold of the chip may rest on them". State.reset is built with it (log 1). -/

namespace Sys2Proof

/-- DS[0] = DS[2] = DS[4] of REFCFG (R42). -/
def Config.refInterruptSet : List FlagDesc :=
  [⟨0x80, "POWER_GOOD"⟩, ⟨0x40, "IINDPM_ACTIVE"⟩, ⟨0x20, "VINDPM_ACTIVE"⟩, ⟨0x10, "THERMAL_REGULATION"⟩,
   ⟨0x08, "WATCHDOG_EXPIRED"⟩]

/-- DS[1] = DS[3] = DS[5] of REFCFG (R42). -/
def Config.refFaultSet : List FlagDesc :=
  [⟨0x80, "OVER_VOLTAGE_PROTECTION"⟩, ⟨0x40, "THERMAL_SHUTDOWN"⟩, ⟨0x20, "BATTERY_OVER_VOLTAGE"⟩]

/-- REFCFG (R42). -/
def Config.ref : Config where
  devAddr     := 0x4B
  faddrVbat   := 0x00
  faddrIchg   := 0x01
  faddrVindpm := 0x02
  faddrIindpm := 0x03
  dsIntStat   := Config.refInterruptSet
  dsFltStat   := Config.refFaultSet
  dsIntFlag   := Config.refInterruptSet
  dsFltFlag   := Config.refFaultSet
  dsIntMask   := Config.refInterruptSet
  dsFltMask   := Config.refFaultSet
  csMask      := 0x06
  csCcPat     := 0x02
  wdEnt       := [⟨0x00, "WD_DISABLED"⟩, ⟨0x10, "WD_40S"⟩, ⟨0x20, "WD_80S"⟩, ⟨0x30, "WD_160S"⟩]
  wdUnknown   := "WD_UNKNOWN"
  chgAddr     := 0x06
  chgEnMask   := 0x08
  wdAddr      := 0x05
  wdMask      := 0x30
  wdOffCode   := 0x00
  rstAddr     := 0x0D
  rstMask     := 0x80
  intStatAddr := 0x07
  fltStatAddr := 0x08
  intFlagAddr := 0x09
  fltFlagAddr := 0x0A

end Sys2Proof
end

