-- ==== Sys2Proof/Machine/State.lean ====
section
/-! DEFINITION. The state of CORE and what stands at its ports (`spec/10_state.md` R20 to R29, `spec/20_memory.md` R53,
`spec/70_reset_and_hazards.md` R240), the reasons a step can stop, and the state after reset. -/

namespace Sys2Proof.Machine

/-- PHASE, CORE's analogue of a program counter (R25). R25 says seven values and names these six, "and nothing else"
(log 7). -/
inductive Phase where
  | idle  -- no command in progress
  | exec  -- command latched: decode, validation and pure computation
  | rd    -- a read transaction is outstanding
  | wr    -- a write transaction is outstanding
  | vrd   -- the verify read transaction of RMOV or CHG_EN is outstanding
  | resp  -- a response word is being offered to the host
deriving DecidableEq, Repr

/-- A request on the port `treq` (R50, R53): the device address, the register address, and a write's byte. -/
inductive TReq where
  | read  (dev : DevAddr) (reg : Byte)
  | write (dev : DevAddr) (reg : Byte) (data : Byte)
deriving DecidableEq, Repr

/-- An answer on the port `trsp` (R51, R52, R53). `ok` carries `t_rdata`, meaningful for a read only; `err` carries the
opaque `t_einfo` (R54). -/
inductive TRsp where
  | ok  (rdata : Byte)
  | err (einfo : Byte)
deriving DecidableEq, Repr

/-- An event at one of CORE's ports (R53: "a command's execution is the trace `Cmd(w)`, then zero to three pairs
`TReq(...)`, `TRsp(...)`, then `Rsp(status, payload)`"). -/
inductive Event where
  | cmd  (w : Word)
  | treq (q : TReq)
  | trsp (a : TRsp)
  | rsp  (w : Word)
  | rst
deriving DecidableEq, Repr

/-- CORE's registers, its ports, its configuration, and the model's own fields. -/
structure State where
  /-- PHASE (R25). -/
  phase : Phase
  /-- CMD, the command latch (R21). -/
  cmd : Word
  /-- LAT, the data latch (R22). -/
  lat : Byte
  /-- VLAT, the verify latch (R23). -/
  vlat : Byte
  /-- EINFO, the opaque error latch (R24). -/
  einfo : Byte
  /-- The outstanding transport transaction (R29 (b), R53). -/
  treq : Option TReq
  /-- The offered response word (R53, R86). -/
  rsp : Option Word
  /-- The configuration; no step changes it (R30; log 1). -/
  cfg : Config
  /-- The command words the host is going to present, oldest first (R53 port `cmd`; log 10). -/
  cmdIn : List Word
  /-- The transport's answers, oldest first: the oracle of R57 (R53 port `trsp`; log 2). -/
  trspIn : List TRsp
  /-- How many requests a reset abandoned and the transport has not answered yet (R241; log 6). -/
  abandoned : Nat
  /-- Whether the host takes an offered response (R53 port `rsp`; log 10). -/
  rspReady : Bool
  /-- Whether a reset event is pending (R53 port `rst`; log 10). -/
  rstIn : Bool
  /-- The events at the ports so far, oldest first (R53; log 9). -/
  trace : List Event
  /-- How many free values were drawn (log 5); the model's own field. -/
  draws : Nat
deriving DecidableEq, Repr

/-- Why the machine stops with a fault. -/
inductive Fault where
  /-- Raised by the shared operations of Machine/Ops.lean when PHASE holds a value from which R26 gives the command no
  transition ("there is no other transition"). No run reaches such a state. Safe (log 13). -/
  | noTransition
deriving DecidableEq, Repr

/-- Why a step is refused. -/
inductive Refusal where
  /-- Raised by an arm of Machine/Dispatch.lean for an instruction without a meaning; no arm raises it. Safe. -/
  | notModelled (mnemonic : String)
  /-- Raised by Machine/Step.lean when the configuration is ill formed: U15 of `spec/93_implementation_defined.md` ("the
  model takes only well-formed configurations"), R32. Safe (log 12). -/
  | illFormedConfig
deriving DecidableEq, Repr

/-- The three outcomes of a step of this machine. -/
abbrev Result := Host.Outcome State Fault Refusal

/-- CORE right after reset: PHASE = IDLE, nothing outstanding, nothing offered (R240, R242, R43). The latches are
"unspecified": 0 is the model's choice (log 4). The configuration is REFCFG (log 1). The inputs are the model's choice:
no command presented, no answer given, the host ready (logs 2, 10). -/
def State.reset : State where
  phase     := .idle
  cmd       := 0
  lat       := 0
  vlat      := 0
  einfo     := 0
  treq      := none
  rsp       := none
  cfg       := Config.ref
  cmdIn     := []
  trspIn    := []
  abandoned := 0
  rspReady  := true
  rstIn     := false
  trace     := []
  draws     := 0

end Sys2Proof.Machine
end

