-- ==== Sys2Proof/Machine/Flags.lean ====
section
/-! DEFINITION. CORE has no flags (`spec/10_state.md` R27): "The only condition output is the status field of each
response word". This file holds the status codes, the error kinds and the response word (`spec/30_encoding.md` R86,
R87, R89; `spec/60_exceptions.md` R210, R212). -/

namespace Sys2Proof.Machine

/-- The error kinds (R14, R210). -/
inductive ErrorKind where
  | outOfRange
  | invalidFieldValue
  | transportError
  | verificationFailed
  | illegalCmd
deriving DecidableEq, Repr

/-- The status of a response: OK or an error kind (R87). -/
inductive Status where
  | ok
  | error (k : ErrorKind)
deriving DecidableEq, Repr

/-- The status codes (R87). -/
def Status.code : Status → BitVec 4
  | .ok                       => 0x0
  | .error .outOfRange         => 0x1
  | .error .invalidFieldValue  => 0x2
  | .error .transportError     => 0x3
  | .error .verificationFailed => 0x4
  | .error .illegalCmd         => 0xF

/-- The response word: status 31:28, zero 27:16, payload 15:0 (R86). -/
def responseWord (st : Status) (payload : Phys) : Word :=
  st.code ++ (0 : BitVec 12) ++ payload

/-- A byte as a payload, `zext_16` (R11, R88). -/
def zext16 (b : Byte) : Phys := b.setWidth 16

/-- The payload an error kind records, from the latches: EINFO for TransportError, VLAT for VerificationFailed, 0 for the
others (R212, R89). -/
def ErrorKind.payload (k : ErrorKind) (einfo vlat : Byte) : Phys :=
  match k with
  | .transportError     => zext16 einfo
  | .verificationFailed => zext16 vlat
  | .outOfRange         => 0
  | .invalidFieldValue  => 0
  | .illegalCmd         => 0

end Sys2Proof.Machine
end

