-- ==== Sys2Proof/Machine/Operands.lean ====
section
/-! DEFINITION. What a command's operands name and what CORE computes from them, without the ports: the constant tables
(`spec/10_state.md` R31, R34, R36, R37), the scaler's arithmetic (`spec/40_scaler.md` R110 to R112), the byte
combinations (`spec/41_rmw_sequencers.md` R134 to R137) and the extractor's look-ups (`spec/42_extractor.md` R160,
R165; `spec/30_encoding.md` R90, R91). -/

namespace Sys2Proof.Machine

/-! ### Constant tables -/

/-- FADDR[s] (R31). -/
def faddr (g : Config) : ScaledField → Byte
  | .vbat   => g.faddrVbat
  | .ichg   => g.faddrIchg
  | .vindpm => g.faddrVindpm
  | .iindpm => g.faddrIindpm

/-- The field descriptor `F[s]`: the steps, offsets and bounds of R31, the address open. IINDPM_MIN = 500 (R5). -/
def fieldDesc (g : Config) (f : ScaledField) : FieldDesc :=
  match f with
  | .vbat   => ⟨faddr g f, 5, 3500, 3500, 4775⟩
  | .ichg   => ⟨faddr g f, 50, 0, 0, 6000⟩
  | .vindpm => ⟨faddr g f, 100, 3900, 3900, 14000⟩
  | .iindpm => ⟨faddr g f, 100, 500, 500, 3600⟩

/-- The descriptor set `DS[k]` (R34). -/
def descs (g : Config) : FlagSet → List FlagDesc
  | .intStat => g.dsIntStat
  | .fltStat => g.dsFltStat
  | .intFlag => g.dsIntFlag
  | .fltFlag => g.dsFltFlag
  | .intMask => g.dsIntMask
  | .fltMask => g.dsFltMask

/-- CS_CV_PAT (R5, R36). -/
def csCvPat : Byte := 0x04

/-- The state table `TBL[t]`: TBL[0] is the charge status table (R36), TBL[1] the watchdog timeout table with mask
WD_MASK (R37). -/
def stateTable (g : Config) : TableId → StateTable
  | .chgStat   => ⟨g.csMask, [⟨g.csCcPat, "CONSTANT_CURRENT"⟩, ⟨csCvPat, "CONSTANT_VOLTAGE"⟩], "OFF"⟩
  | .wdTimeout => ⟨g.wdMask, g.wdEnt, g.wdUnknown⟩

/-! ### The scaler -/

/-- Saturation to a byte (R10). -/
def sat8 (q : Int) : Byte :=
  if q < 0 then 0 else if q > 255 then 255 else BitVec.ofNat 8 q.toNat

/-- The physical value is in the field's closed range (R110). -/
def inRange (d : FieldDesc) (p : Phys) : Bool :=
  decide (d.min ≤ p.toNat ∧ p.toNat ≤ d.max)

/-- The raw byte of a physical value: floor division of the exact difference, then saturation (R110, R112, R9). -/
def scale (d : FieldDesc) (p : Phys) : Byte :=
  sat8 (Int.fdiv ((p.toNat : Int) - d.off) d.lsb)

/-- ENC's computation: none is OutOfRange, decided before anything else is computed (R110). -/
def encodeScaled (d : FieldDesc) (p : Phys) : Option Byte :=
  if inRange d p then some (scale d p) else none

/-- DEC's computation, `raw * lsb + off`, delivered in 16 bits (R111, R112). -/
def decodeScaled (d : FieldDesc) (raw : Byte) : Phys :=
  BitVec.ofNat 16 (raw.toNat * d.lsb + d.off)

/-! ### Byte combinations -/

/-- The mask is fully set in the byte (R8). -/
def fullySet (m r : Byte) : Bool := (r &&& m) == m

/-- The value is confined to the mask (R8). -/
def confined (v m : Byte) : Bool := (v &&& ~~~m) == 0

/-- RMO's combination (R134). -/
def orMask (m r : Byte) : Byte := r ||| m

/-- RMC's combination (R135). -/
def clearMask (m r : Byte) : Byte := r &&& ~~~m

/-- WBF's combination (R136). -/
def replaceField (m v r : Byte) : Byte := (r &&& ~~~m) ||| v

/-! ### The extractor -/

/-- The hit vector: bit i is 1 exactly when descriptor i's mask is fully set in the byte (R90, R160). The first
descriptor is bit 0, and the later ones' vector stands one place higher. -/
def hitVector : List FlagDesc → Byte → Phys
  | [], _      => 0
  | d :: ds, r => (hitVector ds r <<< 1) ||| (if fullySet d.mask r then 1 else 0)

/-- The state code of an extracted value: 0 if no entry matches, j + 1 if entry j is the first that does (R91, R165). -/
def firstMatch : List StateEntry → Byte → Nat
  | [], _      => 0
  | e :: es, x =>
    if x = e.pat then 1
    else match firstMatch es x with
      | 0     => 0
      | n + 1 => n + 2

/-- DMS's computation: mask in place, then the first match in table order (R165). -/
def stateCode (t : StateTable) (r : Byte) : Phys :=
  BitVec.ofNat 16 (firstMatch t.ent (r &&& t.mask))

/-- The source's ordered sequence of conditions, recovered from a hit vector: the names of the descriptors whose bit is
1, in ascending index (R90, R162). -/
def conditionNames : List FlagDesc → Phys → List String
  | [], _      => []
  | d :: ds, h => if h.getLsbD 0 then d.name :: conditionNames ds (h >>> 1) else conditionNames ds (h >>> 1)

/-- The name a state code stands for: `TBL[t].unknown` for 0, entry j's for j + 1 (R91). -/
def stateName (t : StateTable) (n : Nat) : String :=
  match n with
  | 0     => t.unknown
  | j + 1 => (t.ent[j]?.map StateEntry.name).getD t.unknown

end Sys2Proof.Machine
end

