-- ==== Sys2Proof/Machine/Ops.lean ====
section
/-! DEFINITION. The operations every meaning is built from: transport transactions (`spec/20_memory.md` R50 to R55),
responding and raising (`spec/00_scope.md` R14, `spec/60_exceptions.md` R212 to R215), the phases of a command
(`spec/10_state.md` R26), taking and returning from a response, and reset (`spec/70_reset_and_hazards.md` R240, R241).

Each phase of R26 in which the transport is awaited has one operation (`inRead`, `inWrite`, `inVerify`). It is entered
with the request outstanding. If the transport has answered, it makes R26's transition and goes on; if not, it leaves
the state as it is: CORE waits (R55). So a command runs as far as the transport has answered, and a later step resumes
it in the phase where it waits (log 3). -/

namespace Sys2Proof.Machine

/-! ### Transactions -/

/-- Issue a transport request: it is outstanding, and PHASE says which transaction of the command it is (R26, R29). -/
def State.issue (q : TReq) (ph : Phase) (s : State) : State :=
  { s with phase := ph, treq := some q, trace := s.trace ++ [.treq q] }

/-- Issue a read of register `a` at DEV_ADDR (R51, R45). -/
def State.issueRead (ph : Phase) (a : Byte) (s : State) : State :=
  s.issue (.read s.cfg.devAddr a) ph

/-- Issue a write of `v` to register `a` at DEV_ADDR (R52, R45). -/
def State.issueWrite (a v : Byte) (s : State) : State :=
  s.issue (.write s.cfg.devAddr a v) .wr

/-- The answers to the requests of the commands in progress and to come: the transport answers each request once, in
order, and the answers to the requests a reset abandoned are ignored (R51, R241; log 6). -/
def State.answers (s : State) : List TRsp := s.trspIn.drop s.abandoned

/-- The answer to the outstanding request, if the transport has given it (R51, R55). -/
def State.takeAnswer (s : State) : Option (TRsp × State) :=
  match s.answers with
  | []        => none
  | a :: rest =>
    some (a, { s with treq := none, trspIn := rest, abandoned := 0, trace := s.trace ++ [.trsp a] })

/-! ### Ending a command -/

/-- Offer a response word to the host (R26, R86). -/
def State.offer (st : Status) (payload : Phys) (s : State) : State :=
  { s with phase := .resp, rsp := some (responseWord st payload) }

/-- `respond OK(p)` (R14). -/
def State.respond (payload : Phys) (s : State) : State := s.offer .ok payload

/-- `raise K(info)`, the one way a command ends in an error: the response word with K's status and K's payload; nothing
is saved, no mode changes, nothing is vectored (R14, R212, R215). -/
def State.raise (k : ErrorKind) (s : State) : State :=
  s.offer (.error k) (k.payload s.einfo s.vlat)

/-- `EINFO <- e; raise TransportError(e)` (R14, R24, R26). -/
def State.raiseTransport (e : Byte) (s : State) : State :=
  ({ s with einfo := e }).raise .transportError

/-- The host takes the response word: RESP to IDLE, after an error as after OK (R26, R215, R217). -/
def State.takeResponse (s : State) : State :=
  { s with phase := .idle, rsp := none, trace := s.trace ++ (s.rsp.map Event.rsp).toList }

/-! ### The phases of a command -/

/-- RD: the answer to a read. `err` ends the command; `ok b` is latched in LAT and the command goes on (R26). -/
def inRead (k : State → Result) (s : State) : Result :=
  match s.takeAnswer with
  | none              => .next s
  | some (.err e, t)  => .next (t.raiseTransport e)
  | some (.ok b, t)   => k { t with lat := b }

/-- WR: the answer to a write. `err` ends the command; after `ok` the command goes on (R26, R52). -/
def inWrite (k : State → Result) (s : State) : Result :=
  match s.takeAnswer with
  | none              => .next s
  | some (.err e, t)  => .next (t.raiseTransport e)
  | some (.ok _, t)   => k t

/-- VRD: the answer to the read-back. `ok b` is latched in VLAT and every bit of the mask must be set in it
(R26, R137). -/
def inVerify (m : Byte) (s : State) : Result :=
  match s.takeAnswer with
  | none              => .next s
  | some (.err e, t)  => .next (t.raiseTransport e)
  | some (.ok b, t)   =>
    if fullySet m b then .next (State.respond 0 { t with vlat := b })
    else .next (State.raise .verificationFailed { t with vlat := b })

/-- The end of a command that writes: `respond OK(0)` (R88). -/
def done (s : State) : Result := .next (s.respond 0)

/-- A command with no transaction: EXEC to RESP with a payload (R26 "pure command"). -/
def pureCommand (payload : Phys) (s : State) : Result :=
  match s.phase with
  | .exec => .next (s.respond payload)
  | _     => .fault .noTransition

/-- A command that decode or validation turns away: EXEC to RESP with an error, no transaction (R26, R213). -/
def rejectCommand (k : ErrorKind) (s : State) : Result :=
  match s.phase with
  | .exec => .next (s.raise k)
  | _     => .fault .noTransition

/-- A read-only command: R, then a payload computed from the byte in LAT (R26, R132, R195 to R199). -/
def readCommand (a : Byte) (payload : Byte → Phys) (s : State) : Result :=
  match s.phase with
  | .exec => inRead (fun t => .next (t.respond (payload t.lat))) (s.issueRead .rd a)
  | .rd   => inRead (fun t => .next (t.respond (payload t.lat))) s
  | _     => .fault .noTransition

/-- A command that needs only a write: W (R26, R133, R181 to R184). -/
def writeCommand (a v : Byte) (s : State) : Result :=
  match s.phase with
  | .exec => inWrite done (s.issueWrite a v)
  | .wr   => inWrite done s
  | _     => .fault .noTransition

/-- RD of a read-modify-write command: the byte written is combined from LAT, and the write is unconditional
(R26, R138). -/
def readThenWrite (a : Byte) (combine : Byte → Byte) (k : State → Result) (s : State) : Result :=
  inRead (fun t => inWrite k (t.issueWrite a (combine t.lat))) s

/-- A read-modify-write command without verification: R, W (R130, R134 to R136). -/
def modifyCommand (a : Byte) (combine : Byte → Byte) (s : State) : Result :=
  match s.phase with
  | .exec => readThenWrite a combine done (s.issueRead .rd a)
  | .rd   => readThenWrite a combine done s
  | .wr   => inWrite done s
  | _     => .fault .noTransition

/-- WR of a verifying command: after `ok` the read-back is issued (R26, R137). -/
def readBack (a m : Byte) (s : State) : Result := inVerify m (s.issueRead .vrd a)

/-- A read, OR, write, read-back and verify command: R, W, R (R137, R186). -/
def verifyCommand (a m : Byte) (s : State) : Result :=
  match s.phase with
  | .exec => readThenWrite a (orMask m) (readBack a m) (s.issueRead .rd a)
  | .rd   => readThenWrite a (orMask m) (readBack a m) s
  | .wr   => inWrite (readBack a m) s
  | .vrd  => inVerify m s
  | _     => .fault .noTransition

/-! ### Accepting a command, and reset -/

/-- IDLE to EXEC: the host presents `w` and it is latched in CMD (R26, R21). -/
def State.accept (w : Word) (rest : List Word) (s : State) : State :=
  { s with phase := .exec, cmd := w, cmdIn := rest, trace := s.trace ++ [.cmd w] }

/-- The `rst` event, in any phase (R240): PHASE is IDLE, the command in progress is abandoned without a response, the
latches are unspecified (free values, log 5), the configuration is kept, no transaction is issued. An outstanding
request is not cancelled: its answer will be ignored (R241; log 6). -/
def State.applyReset (s : State) : State :=
  { s with
    phase     := .idle
    cmd       := Config.freeWord s.draws
    lat       := Config.freeByte s.draws
    vlat      := Config.freeByte (s.draws + 1)
    einfo     := Config.freeByte (s.draws + 2)
    draws     := s.draws + 3
    treq      := none
    rsp       := none
    abandoned := s.abandoned + s.treq.toList.length
    rstIn     := false
    trace     := s.trace ++ [.rst] }

/-- A command word that matches no row of the opcode table: answered ILLEGAL_CMD, no transaction (R92, R216; log 11). -/
def execIllegal (s : State) : Result := rejectCommand .illegalCmd s

end Sys2Proof.Machine
end

