-- ==== Sys2Proof/Machine/Composite.lean ====
section
/-! DEFINITION. The thirteen composite commands (`spec/43_composite.md` R181 to R189, R195 to R199). All addresses and
masks come from the configuration (R180). -/

namespace Sys2Proof.Machine

/-- The body of the four setters (R181): OutOfRange with no transaction, else one whole-byte write of the raw byte. -/
def setLimit (f : ScaledField) (p : Phys) (s : State) : Result :=
  match encodeScaled (fieldDesc s.cfg f) p with
  | none     => rejectCommand .outOfRange s
  | some raw => writeCommand (faddr s.cfg f) raw s

/-- SET_VBAT (R181). -/
def execSetVbat (p : Phys) (s : State) : Result := setLimit .vbat p s

/-- SET_ICHG (R182). -/
def execSetIchg (p : Phys) (s : State) : Result := setLimit .ichg p s

/-- SET_VINDPM (R183). -/
def execSetVindpm (p : Phys) (s : State) : Result := setLimit .vindpm p s

/-- SET_IINDPM (R184). -/
def execSetIindpm (p : Phys) (s : State) : Result := setLimit .iindpm p s

/-- CHG_EN (R186). -/
def execChgEn (s : State) : Result := verifyCommand s.cfg.chgAddr s.cfg.chgEnMask s

/-- CHG_DIS (R187). -/
def execChgDis (s : State) : Result := modifyCommand s.cfg.chgAddr (clearMask s.cfg.chgEnMask) s

/-- WD_DIS (R188). -/
def execWdDis (s : State) : Result :=
  modifyCommand s.cfg.wdAddr (replaceField s.cfg.wdMask s.cfg.wdOffCode) s

/-- REG_RST (R189). -/
def execRegRst (s : State) : Result := modifyCommand s.cfg.rstAddr (orMask s.cfg.rstMask) s

/-- GET_CHG_STAT (R195). -/
def execGetChgStat (s : State) : Result :=
  readCommand s.cfg.intStatAddr (stateCode (stateTable s.cfg .chgStat)) s

/-- GET_INT_STAT (R196). -/
def execGetIntStat (s : State) : Result :=
  readCommand s.cfg.intStatAddr (hitVector (descs s.cfg .intStat)) s

/-- GET_FLT_STAT (R197). -/
def execGetFltStat (s : State) : Result :=
  readCommand s.cfg.fltStatAddr (hitVector (descs s.cfg .fltStat)) s

/-- GET_INT_FLAG (R198). -/
def execGetIntFlag (s : State) : Result :=
  readCommand s.cfg.intFlagAddr (hitVector (descs s.cfg .intFlag)) s

/-- GET_FLT_FLAG (R199). -/
def execGetFltFlag (s : State) : Result :=
  readCommand s.cfg.fltFlagAddr (hitVector (descs s.cfg .fltFlag)) s

end Sys2Proof.Machine
end

