-- ==== Sys2Proof/Machine/Extractor.lean ====
section
/-! DEFINITION. The extractor: DFL and DMS (`spec/42_extractor.md` R160, R165). -/

namespace Sys2Proof.Machine

/-- DFL (R160): the hit vector of the selected descriptor set. -/
def execDfl (k : FlagSet) (raw : Byte) (s : State) : Result :=
  pureCommand (hitVector (descs s.cfg k) raw) s

/-- DMS (R165): the state code of the selected table. -/
def execDms (t : TableId) (raw : Byte) (s : State) : Result :=
  pureCommand (stateCode (stateTable s.cfg t) raw) s

end Sys2Proof.Machine
end

