-- ==== Sys2Proof/Machine/Scaler.lean ====
section
/-! DEFINITION. The scaler: ENC and DEC (`spec/40_scaler.md` R110, R111). -/

namespace Sys2Proof.Machine

/-- ENC (R110): the raw byte, or OutOfRange. -/
def execEnc (f : ScaledField) (p : Phys) (s : State) : Result :=
  match encodeScaled (fieldDesc s.cfg f) p with
  | none     => rejectCommand .outOfRange s
  | some raw => pureCommand (zext16 raw) s

/-- DEC (R111): the physical value of any raw byte. -/
def execDec (f : ScaledField) (raw : Byte) (s : State) : Result :=
  pureCommand (decodeScaled (fieldDesc s.cfg f) raw) s

end Sys2Proof.Machine
end

