-- ==== Sys2Proof/Machine/Sequencer.lean ====
section
/-! DEFINITION. The register sequencers: RDB, WRB, RMO, RMC, WBF, RMOV (`spec/41_rmw_sequencers.md` R132 to R137). -/

namespace Sys2Proof.Machine

/-- RDB (R132). -/
def execRdb (a : Byte) (s : State) : Result := readCommand a zext16 s

/-- WRB (R133). -/
def execWrb (a v : Byte) (s : State) : Result := writeCommand a v s

/-- RMO (R134). -/
def execRmo (a m : Byte) (s : State) : Result := modifyCommand a (orMask m) s

/-- RMC (R135). -/
def execRmc (a m : Byte) (s : State) : Result := modifyCommand a (clearMask m) s

/-- WBF (R136): InvalidFieldValue before any transaction. -/
def execWbf (a m v : Byte) (s : State) : Result :=
  if confined v m then modifyCommand a (replaceField m v) s else rejectCommand .invalidFieldValue s

/-- RMOV (R137). -/
def execRmov (a m : Byte) (s : State) : Result := verifyCommand a m s

end Sys2Proof.Machine
end

