-- ==== Sys2Proof/Machine/Dispatch.lean ====
section
/-! DEFINITION. One arm per command (`spec/30_encoding.md` R84, R95: "execute the row's rule with the fields of its
format"). -/

namespace Sys2Proof.Machine

def exec (i : Instr) (s : State) : Host.Outcome State Fault Refusal :=
  match i with
  -- the scaler
  | .enc f p => Sys2Proof.Machine.execEnc f p s
  | .dec f raw => Sys2Proof.Machine.execDec f raw s
  -- the sequencers
  | .rdb a => Sys2Proof.Machine.execRdb a s
  | .wrb a v => Sys2Proof.Machine.execWrb a v s
  | .rmo a m => Sys2Proof.Machine.execRmo a m s
  | .rmc a m => Sys2Proof.Machine.execRmc a m s
  | .wbf a m v => Sys2Proof.Machine.execWbf a m v s
  | .rmov a m => Sys2Proof.Machine.execRmov a m s
  -- the extractor
  | .dfl k raw => Sys2Proof.Machine.execDfl k raw s
  | .dms t raw => Sys2Proof.Machine.execDms t raw s
  -- the composites
  | .setVbat p => Sys2Proof.Machine.execSetVbat p s
  | .setIchg p => Sys2Proof.Machine.execSetIchg p s
  | .setVindpm p => Sys2Proof.Machine.execSetVindpm p s
  | .setIindpm p => Sys2Proof.Machine.execSetIindpm p s
  | .chgEn => Sys2Proof.Machine.execChgEn s
  | .chgDis => Sys2Proof.Machine.execChgDis s
  | .wdDis => Sys2Proof.Machine.execWdDis s
  | .regRst => Sys2Proof.Machine.execRegRst s
  | .getChgStat => Sys2Proof.Machine.execGetChgStat s
  | .getIntStat => Sys2Proof.Machine.execGetIntStat s
  | .getFltStat => Sys2Proof.Machine.execGetFltStat s
  | .getIntFlag => Sys2Proof.Machine.execGetIntFlag s
  | .getFltFlag => Sys2Proof.Machine.execGetFltFlag s

end Sys2Proof.Machine
end

