-- ==== Sys2Proof/Machine/Step.lean ====
section
/-! DEFINITION. One step of the machine (`spec/10_state.md` R26, `spec/20_memory.md` R71). -/

namespace Sys2Proof.Machine

/-- Run the command in CMD from the phase it is in: R95's decode, then its meaning, or ILLEGAL_CMD (R26, R92). -/
def runCommand (s : State) : Result :=
  match decode s.cmd with
  | some i => exec i s
  | none   => execIllegal s

/-- One step. A pending reset comes first, in any phase (R240; log 15). In IDLE the next presented command is accepted
and runs at once; in EXEC, RD, WR and VRD the command in CMD runs on; in RESP the host takes the response. Where the
agent whose move it is does not move, the state stays as it is (R55, R242; log 16). An ill-formed configuration is
refused (U15 of `spec/93_implementation_defined.md`; log 12). -/
def step (s : State) : Host.Outcome State Fault Refusal :=
  if s.cfg.wellFormed then
    if s.rstIn then .next s.applyReset
    else
      match s.phase with
      | .idle =>
        match s.cmdIn with
        | []      => .next s
        | w :: ws => runCommand (s.accept w ws)
      | .resp => if s.rspReady then .next s.takeResponse else .next s
      | _     => runCommand s
  else .refused .illFormedConfig

/-- The state in which the host presents the word `w` next and CORE is free to accept it: PHASE is IDLE, nothing is
outstanding or offered, no reset is pending (R26; log 14). -/
def State.withFetchWord (s : State) (nbits w : Nat) : State :=
  { s with
    phase := .idle
    treq  := none
    rsp   := none
    rstIn := false
    cmdIn := tableWord nbits w :: s.cmdIn }

end Sys2Proof.Machine
end

