-- ==== Sys2Proof/Machine/Assembler.lean ====
section
/-! DEFINITION. The textual form of commands (`spec/30_encoding.md` R96) and the pseudo-instructions SETL and CLRF (R97):
one line of text to the command it writes. A line is a mnemonic and its operands separated by commas; numbers are
decimal, or hexadecimal with the prefix 0x; field, set and table operands are names or indexes; `;` starts a comment.
The machine never reads text: this file is the reading of R96 that the test vectors are written in (log 19). -/

namespace Sys2Proof.Assembler

/-- White space between tokens. -/
def isSpace (c : Char) : Bool := c = ' ' || c = '\t'

/-- A token without the white space around it. -/
def trim (cs : List Char) : List Char :=
  ((cs.dropWhile isSpace).reverse.dropWhile isSpace).reverse

/-- The pieces of a text between separators. -/
def splitAt (sep : Char) : List Char → List (List Char)
  | []      => [[]]
  | c :: cs =>
    if c = sep then [] :: splitAt sep cs
    else match splitAt sep cs with
      | []      => [[c]]
      | p :: ps => (c :: p) :: ps

/-- The value of a hexadecimal digit. -/
def digit (c : Char) : Option Nat :=
  let n := c.toNat
  if 48 ≤ n ∧ n ≤ 57 then some (n - 48)
  else if 65 ≤ n ∧ n ≤ 70 then some (n - 55)
  else if 97 ≤ n ∧ n ≤ 102 then some (n - 87)
  else none

/-- The value of a string of digits in a base, continuing from `acc`. -/
def digits (base : Nat) (acc : Nat) : List Char → Option Nat
  | []      => some acc
  | c :: cs => (digit c).bind fun d => if d < base then digits base (acc * base + d) cs else none

/-- A number: decimal, or hexadecimal with the prefix 0x (R96). -/
def number : List Char → Option Nat
  | []                      => none
  | '0' :: 'x' :: d :: ds   => digits 16 0 (d :: ds)
  | d :: ds                 => digits 10 0 (d :: ds)

/-- A number that fits in w bits. -/
def bits (w : Nat) (cs : List Char) : Option (BitVec w) :=
  (number cs).bind fun n => if n < 2 ^ w then some (BitVec.ofNat w n) else none

/-- A field operand, by name or by index (R96). -/
def field (cs : List Char) : Option ScaledField :=
  if cs = "VBAT".toList then some .vbat
  else if cs = "ICHG".toList then some .ichg
  else if cs = "VINDPM".toList then some .vindpm
  else if cs = "IINDPM".toList then some .iindpm
  else (bits 3 cs).bind ScaledField.ofSel?

/-- A set operand, by name or by index (R96). -/
def flagSet (cs : List Char) : Option FlagSet :=
  if cs = "INT_STAT".toList then some .intStat
  else if cs = "FLT_STAT".toList then some .fltStat
  else if cs = "INT_FLAG".toList then some .intFlag
  else if cs = "FLT_FLAG".toList then some .fltFlag
  else if cs = "INT_MASK".toList then some .intMask
  else if cs = "FLT_MASK".toList then some .fltMask
  else (bits 3 cs).bind FlagSet.ofSel?

/-- A table operand, by name or by index (R96). -/
def table (cs : List Char) : Option TableId :=
  if cs = "CHG_STAT".toList then some .chgStat
  else if cs = "WD_TIMEOUT".toList then some .wdTimeout
  else (bits 3 cs).bind TableId.ofSel?

/-- The SET command of a field: the pseudo-instruction `SETL field, p` (R97). -/
def setl (f : ScaledField) (p : Phys) : Instr :=
  match f with
  | .vbat   => .setVbat p
  | .ichg   => .setIchg p
  | .vindpm => .setVindpm p
  | .iindpm => .setIindpm p

/-- The pseudo-instruction `CLRF addr, mask`: `WBF addr, mask, 0` (R97). -/
def clrf (a m : Byte) : Instr := .wbf a m 0

/-- The command with no operands a mnemonic names: format Z (R81, R84). -/
def zCommand (mn : List Char) : Option Instr :=
  if mn = "CHG_EN".toList then some .chgEn
  else if mn = "CHG_DIS".toList then some .chgDis
  else if mn = "WD_DIS".toList then some .wdDis
  else if mn = "REG_RST".toList then some .regRst
  else if mn = "GET_CHG_STAT".toList then some .getChgStat
  else if mn = "GET_INT_STAT".toList then some .getIntStat
  else if mn = "GET_FLT_STAT".toList then some .getFltStat
  else if mn = "GET_INT_FLAG".toList then some .getIntFlag
  else if mn = "GET_FLT_FLAG".toList then some .getFltFlag
  else none

/-- The command with one operand (R96): RDB and the four setters. -/
def oneOperand (mn x : List Char) : Option Instr :=
  if mn = "RDB".toList then (bits 8 x).map .rdb
  else if mn = "SET_VBAT".toList then (bits 16 x).map .setVbat
  else if mn = "SET_ICHG".toList then (bits 16 x).map .setIchg
  else if mn = "SET_VINDPM".toList then (bits 16 x).map .setVindpm
  else if mn = "SET_IINDPM".toList then (bits 16 x).map .setIindpm
  else none

/-- The command with two operands (R96, R97). -/
def twoOperands (mn x y : List Char) : Option Instr :=
  if mn = "ENC".toList then (field x).bind fun f => (bits 16 y).map (.enc f)
  else if mn = "DEC".toList then (field x).bind fun f => (bits 8 y).map (.dec f)
  else if mn = "DFL".toList then (flagSet x).bind fun k => (bits 8 y).map (.dfl k)
  else if mn = "DMS".toList then (table x).bind fun t => (bits 8 y).map (.dms t)
  else if mn = "WRB".toList then (bits 8 x).bind fun a => (bits 8 y).map (.wrb a)
  else if mn = "RMO".toList then (bits 8 x).bind fun a => (bits 8 y).map (.rmo a)
  else if mn = "RMC".toList then (bits 8 x).bind fun a => (bits 8 y).map (.rmc a)
  else if mn = "RMOV".toList then (bits 8 x).bind fun a => (bits 8 y).map (.rmov a)
  else if mn = "SETL".toList then (field x).bind fun f => (bits 16 y).map (setl f)
  else if mn = "CLRF".toList then (bits 8 x).bind fun a => (bits 8 y).map (clrf a)
  else none

/-- The command with three operands: WBF (R96). -/
def threeOperands (mn x y z : List Char) : Option Instr :=
  if mn = "WBF".toList then
    (bits 8 x).bind fun a => (bits 8 y).bind fun m => (bits 8 z).map (.wbf a m)
  else none

/-- The operand tokens of a line's rest; none if it is blank. -/
def operands (rest : List Char) : List (List Char) :=
  if trim rest = [] then [] else (splitAt ',' rest).map trim

/-- The command a line of text writes, if it writes one (R96, R97). -/
def assembleChars (line : List Char) : Option Instr :=
  let text := trim (line.takeWhile (· ≠ ';'))
  let mn := text.takeWhile (fun c => !isSpace c)
  match operands (text.dropWhile (fun c => !isSpace c)) with
  | []        => zCommand mn
  | [x]       => oneOperand mn x
  | [x, y]    => twoOperands mn x y
  | [x, y, z] => threeOperands mn x y z
  | _         => none

/-- The command a line of text writes (R96). -/
def assemble (line : String) : Option Instr := assembleChars line.toList

end Sys2Proof.Assembler
end

