-- ==== Sys2Proof/Machine/Env.lean ====
section
/-! DEFINITION. What the world outside CORE can do between two steps, one function for each of the ports `cmd`, `rsp`,
`trsp` and `rst` (`spec/20_memory.md` R53, R71). A run of CORE with its surroundings is any sequence of these and of
`step`. -/

namespace Sys2Proof.Machine

/-- The host is going to present one more command word, after those it already holds (R53 port `cmd`, R71). -/
def State.present (w : Word) (s : State) : State := { s with cmdIn := s.cmdIn ++ [w] }

/-- The transport answers, after the answers it already gave (R53 port `trsp`, R57). -/
def State.answerWith (a : TRsp) (s : State) : State := { s with trspIn := s.trspIn ++ [a] }

/-- The host becomes ready, or stops being ready, to take a response (R53 port `rsp`). -/
def State.setReady (b : Bool) (s : State) : State := { s with rspReady := b }

/-- The `rst` event occurs (R53 port `rst`, R240). -/
def State.raiseRst (s : State) : State := { s with rstIn := true }

/-- The host presents its next word and CORE accepts it: R26's first transition by itself, without the run that `step`
makes of it. With it, and with answers that come one at a time, a run can stop between any two transitions of R26's
table, so that a reset can fall there (R240 "in any phase"; log 3). -/
def State.acceptAlone (s : State) : State :=
  match s.phase, s.cmdIn with
  | .idle, w :: ws => if s.rstIn then s else s.accept w ws
  | _, _           => s

/-- One thing the surroundings can do. -/
inductive Input where
  | present (w : Word)
  | answer (a : TRsp)
  | ready (b : Bool)
  | rst
  | acceptAlone
deriving DecidableEq, Repr

/-- The state after an input. -/
def State.input (s : State) : Input → State
  | .present w   => s.present w
  | .answer a    => s.answerWith a
  | .ready b     => s.setReady b
  | .rst         => s.raiseRst
  | .acceptAlone => s.acceptAlone

end Sys2Proof.Machine
end

