-- ==== Sys2Proof/Safety.lean ====
section
/-! DEFINITION. What the claims about CORE are stated in: the outstanding request a command must have in each phase, the
states a run can reach (`Coherent`), the protocol the ports' history must follow, the tables of R56 and R211, and what
a host can see. Nothing here is used by the machine. -/

namespace Sys2Proof.Machine

/-! ### The request a command has outstanding (R26, R29) -/

/-- The request of a read-modify-write command in a waiting phase: the byte written is computed from LAT (R29 (a),
R139). -/
def rmwRequest (g : Config) (a : Byte) (w : Byte) : Phase → Option TReq
  | .rd => some (.read g.devAddr a)
  | .wr => some (.write g.devAddr a w)
  | _   => none

/-- The request of a verifying command in a waiting phase (R137). -/
def verifyRequest (g : Config) (a : Byte) (w : Byte) : Phase → Option TReq
  | .rd  => some (.read g.devAddr a)
  | .wr  => some (.write g.devAddr a w)
  | .vrd => some (.read g.devAddr a)
  | _    => none

/-- The request of a read-only command in a waiting phase. -/
def readRequest (g : Config) (a : Byte) : Phase → Option TReq
  | .rd => some (.read g.devAddr a)
  | _   => none

/-- The request of a command that needs only a write. -/
def writeRequest (g : Config) (a v : Byte) : Phase → Option TReq
  | .wr => some (.write g.devAddr a v)
  | _   => none

/-- The request of a SET command: none if the value is out of range (R181, R213). -/
def setRequest (g : Config) (f : ScaledField) (p : Phys) (ph : Phase) : Option TReq :=
  (encodeScaled (fieldDesc g f) p).bind fun raw => writeRequest g (faddr g f) raw ph

/-- The request a command has outstanding in a phase, with LAT as it stands; none in a phase in which the command has no
transaction (R26, R56). -/
def request (g : Config) (lat : Byte) (i : Instr) (ph : Phase) : Option TReq :=
  match i with
  | .enc _ _     => none
  | .dec _ _     => none
  | .rdb a       => readRequest g a ph
  | .wrb a v     => writeRequest g a v ph
  | .rmo a m     => rmwRequest g a (orMask m lat) ph
  | .rmc a m     => rmwRequest g a (clearMask m lat) ph
  | .wbf a m v   => if confined v m then rmwRequest g a (replaceField m v lat) ph else none
  | .rmov a m    => verifyRequest g a (orMask m lat) ph
  | .dfl _ _     => none
  | .dms _ _     => none
  | .setVbat p   => setRequest g .vbat p ph
  | .setIchg p   => setRequest g .ichg p ph
  | .setVindpm p => setRequest g .vindpm p ph
  | .setIindpm p => setRequest g .iindpm p ph
  | .chgEn       => verifyRequest g g.chgAddr (orMask g.chgEnMask lat) ph
  | .chgDis      => rmwRequest g g.chgAddr (clearMask g.chgEnMask lat) ph
  | .wdDis       => rmwRequest g g.wdAddr (replaceField g.wdMask g.wdOffCode lat) ph
  | .regRst      => rmwRequest g g.rstAddr (orMask g.rstMask lat) ph
  | .getChgStat  => readRequest g g.intStatAddr ph
  | .getIntStat  => readRequest g g.intStatAddr ph
  | .getFltStat  => readRequest g g.fltStatAddr ph
  | .getIntFlag  => readRequest g g.intFlagAddr ph
  | .getFltFlag  => readRequest g g.fltFlagAddr ph

/-! ### The states of a run -/

/-- PHASE, the outstanding request and the offered response agree (R25, R26, R53): a request is outstanding exactly in
RD, WR and VRD and is the one CMD's command has there; a response is offered exactly in RESP and is a response word. -/
def Coherent (s : State) : Prop :=
  match s.phase with
  | .idle => s.treq = none ∧ s.rsp = none
  | .exec => s.treq = none ∧ s.rsp = none
  | .resp => s.treq = none ∧ ∃ st p, s.rsp = some (responseWord st p)
  | ph    => s.rsp = none ∧ ∃ i q, decode s.cmd = some i ∧ request s.cfg s.lat i ph = some q ∧ s.treq = some q

/-- A configuration the model takes (U15 of `spec/93_implementation_defined.md`) and a coherent state. -/
def Safe (s : State) : Prop := s.cfg.wellFormed = true ∧ Coherent s

/-- A state is reached from another by steps and inputs of the surroundings, in any order (R71). -/
inductive Reach (s : State) : State → Prop
  | refl : Reach s s
  | step {t u : State} : Reach s t → Machine.step t = .next u → Reach s u
  | input {t : State} (i : Input) : Reach s t → Reach s (t.input i)

/-! ### The ports' protocol (R53, R66) -/

/-- Where the history of the ports stands: no command in progress; a command that has had n transactions, none
outstanding; a command whose n-th transaction is outstanding. -/
inductive Port where
  | free
  | busy (n : Nat)
  | waiting (n : Nat)
deriving DecidableEq, Repr

/-- The most transactions a command makes (R53 "zero to three pairs", R56). -/
def maxTransactions : Nat := 3

/-- The protocol of R53 and R66: a command only when none is in progress, a request only when none is outstanding, at
most three of them, an answer only to an outstanding request, a response only when none is outstanding; a reset at any
time (R240). None where the protocol does not admit the event. -/
def Port.next : Port → Event → Option Port
  | _,          .rst    => some .free
  | .free,      .cmd _  => some (.busy 0)
  | .busy n,    .treq _ => if n < maxTransactions then some (.waiting (n + 1)) else none
  | .waiting n, .trsp _ => some (.busy n)
  | .busy _,    .rsp _  => some .free
  | .free,      .treq _ => none
  | .free,      .trsp _ => none
  | .free,      .rsp _  => none
  | .busy _,    .cmd _  => none
  | .busy _,    .trsp _ => none
  | .waiting _, .cmd _  => none
  | .waiting _, .treq _ => none
  | .waiting _, .rsp _  => none

/-- Where a history leaves the port, or none if it breaks the protocol. -/
def Port.after (p : Port) : List Event → Option Port
  | []      => some p
  | e :: es => (p.next e).bind (·.after es)

/-! ### The tables of R56 and R211 -/

/-- The kinds of transaction (R56). -/
inductive TKind where
  | r
  | w
deriving DecidableEq, Repr

/-- The kind of a request. -/
def TReq.kind : TReq → TKind
  | .read _ _    => .r
  | .write _ _ _ => .w

/-- The transactions of a command when validation passes and all succeed (R56, third column). -/
def transactions : Instr → List TKind
  | .enc _ _ | .dec _ _ | .dfl _ _ | .dms _ _ => []
  | .rdb _ | .getChgStat | .getIntStat | .getFltStat | .getIntFlag | .getFltFlag => [.r]
  | .wrb _ _ | .setVbat _ | .setIchg _ | .setVindpm _ | .setIindpm _ => [.w]
  | .rmo _ _ | .rmc _ _ | .wbf _ _ _ | .chgDis | .wdDis | .regRst => [.r, .w]
  | .rmov _ _ | .chgEn => [.r, .w, .r]

/-- Which of its transactions a command's write is: the first where the command needs only a write, else the second
(R56). -/
def writeOrdinal (w : Word) : Nat :=
  match decode w with
  | some i => if transactions i = [.w] then 1 else 2
  | none   => 2

/-- Where the port stands in each phase (R26): in RD a command's first transaction is outstanding, in WR its write, in
VRD its third. -/
def Port.fits (p : Port) (s : State) : Prop :=
  match s.phase with
  | .idle => p = .free
  | .exec => p = .busy 0
  | .rd   => p = .waiting 1
  | .wr   => p = .waiting (writeOrdinal s.cmd)
  | .vrd  => p = .waiting 3
  | .resp => ∃ n, p = .busy n

/-- The history follows the protocol and stands where PHASE says. -/
def HistoryFits (s : State) : Prop := ∃ p, Port.after .free s.trace = some p ∧ p.fits s

/-- The validation that can end a command before any transaction (R56, second column; R211): the kind it raises, when
it fails. -/
def validation (g : Config) : Instr → Option ErrorKind
  | .enc f p     => if inRange (fieldDesc g f) p then none else some .outOfRange
  | .setVbat p   => if inRange (fieldDesc g .vbat) p then none else some .outOfRange
  | .setIchg p   => if inRange (fieldDesc g .ichg) p then none else some .outOfRange
  | .setVindpm p => if inRange (fieldDesc g .vindpm) p then none else some .outOfRange
  | .setIindpm p => if inRange (fieldDesc g .iindpm) p then none else some .outOfRange
  | .wbf _ m v   => if confined v m then none else some .invalidFieldValue
  | .dec _ _ | .rdb _ | .wrb _ _ | .rmo _ _ | .rmc _ _ | .rmov _ _ | .dfl _ _ | .dms _ _ | .chgEn | .chgDis | .wdDis
  | .regRst | .getChgStat | .getIntStat | .getFltStat | .getIntFlag | .getFltFlag => none

/-- The kinds a command can raise (R211); IllegalCmd is raised by a word that is no command. -/
def mayRaise (i : Instr) (k : ErrorKind) : Bool :=
  match k with
  | .outOfRange =>
    match i with
    | .enc _ _ | .setVbat _ | .setIchg _ | .setVindpm _ | .setIindpm _ => true
    | _ => false
  | .invalidFieldValue =>
    match i with
    | .wbf _ _ _ => true
    | _ => false
  | .transportError =>
    match i with
    | .enc _ _ | .dec _ _ | .dfl _ _ | .dms _ _ => false
    | _ => true
  | .verificationFailed =>
    match i with
    | .rmov _ _ | .chgEn => true
    | _ => false
  | .illegalCmd => false

/-- The one device register a command's transactions go to (R131, R180); none for a command that has no transaction. -/
def registerOf (g : Config) : Instr → Option Byte
  | .enc _ _ | .dec _ _ | .dfl _ _ | .dms _ _ => none
  | .rdb a | .wrb a _ | .rmo a _ | .rmc a _ | .wbf a _ _ | .rmov a _ => some a
  | .setVbat _   => some g.faddrVbat
  | .setIchg _   => some g.faddrIchg
  | .setVindpm _ => some g.faddrVindpm
  | .setIindpm _ => some g.faddrIindpm
  | .chgEn | .chgDis => some g.chgAddr
  | .wdDis => some g.wdAddr
  | .regRst => some g.rstAddr
  | .getChgStat | .getIntStat => some g.intStatAddr
  | .getFltStat => some g.fltStatAddr
  | .getIntFlag => some g.intFlagAddr
  | .getFltFlag => some g.fltFlagAddr

/-- The device address of a request. -/
def TReq.dev : TReq → DevAddr
  | .read d _    => d
  | .write d _ _ => d

/-- The register address of a request. -/
def TReq.reg : TReq → Byte
  | .read _ a    => a
  | .write _ a _ => a

/-- The requests in a piece of history, in order. -/
def requestsOf : List Event → List TReq
  | []              => []
  | .treq q :: es   => q :: requestsOf es
  | .cmd _ :: es    => requestsOf es
  | .trsp _ :: es   => requestsOf es
  | .rsp _ :: es    => requestsOf es
  | .rst :: es      => requestsOf es

/-! ### The shapes of a command's outcomes

A command started in EXEC ends in one of few ways, by what the transport answers. The results are written out as
updates of the state it starts in, so that what they do not name is unchanged. -/

/-- `s`, after the events `evs`, with the response word `w` offered and the answers `rest` left. -/
def State.ended (s : State) (w : Word) (evs : List Event) (rest : List TRsp) : State :=
  { s with phase := .resp, rsp := some w, treq := none, trspIn := rest, abandoned := 0, trace := s.trace ++ evs }

/-- `s`, waiting in `ph` for the answer to its first request `q`; no answer was taken. -/
def State.waitingFirst (s : State) (ph : Phase) (q : TReq) : State :=
  { s with phase := ph, treq := some q, trace := s.trace ++ [.treq q] }

/-- `s`, after the events `evs`, waiting in `ph` for the answer to a later request `q`; every answer was taken. -/
def State.waitingLater (s : State) (ph : Phase) (q : TReq) (evs : List Event) : State :=
  { s with phase := ph, treq := some q, trspIn := [], abandoned := 0, trace := s.trace ++ evs }

/-- The response word of a transport error with information `e` (R89, R212). -/
def transportErrorWord (e : Byte) : Word := responseWord (.error .transportError) (zext16 e)

/-- Started in EXEC, the command is turned away with error `k` and payload 0, whatever the transport would answer; it
touches nothing but PHASE and the response port (R213). -/
def RejectedBy (i : Instr) (k : ErrorKind) (s : State) : Prop :=
  exec i s = .next { s with phase := .resp, rsp := some (responseWord (.error k) 0) }

/-- Started in EXEC, the command reads register `a`: it waits in RD, or ends with the transport's error and EINFO
written, or latches the byte in LAT and answers OK with a payload computed from it. -/
def ReadsThenResponds (i : Instr) (a : Config → Byte) (payload : Config → Byte → Phys) : Prop :=
  ∀ s : State, s.phase = .exec →
    (s.answers = [] → exec i s = .next (s.waitingFirst .rd (.read s.cfg.devAddr (a s.cfg)))) ∧
    (∀ e rest, s.answers = .err e :: rest →
      exec i s = .next { s.ended (transportErrorWord e)
        [.treq (.read s.cfg.devAddr (a s.cfg)), .trsp (.err e)] rest with einfo := e }) ∧
    (∀ r rest, s.answers = .ok r :: rest →
      exec i s = .next { s.ended (responseWord .ok (payload s.cfg r))
        [.treq (.read s.cfg.devAddr (a s.cfg)), .trsp (.ok r)] rest with lat := r })

/-- Started in EXEC, the command writes the byte `v` to register `a`, without a read: it waits in WR, or ends with the
transport's error and EINFO written, or answers OK with payload 0. -/
def WritesOnce (i : Instr) (a : Config → Byte) (v : Byte) (s : State) : Prop :=
    (s.answers = [] → exec i s = .next (s.waitingFirst .wr (.write s.cfg.devAddr (a s.cfg) v))) ∧
    (∀ e rest, s.answers = .err e :: rest →
      exec i s = .next { s.ended (transportErrorWord e)
        [.treq (.write s.cfg.devAddr (a s.cfg) v), .trsp (.err e)] rest with einfo := e }) ∧
    (∀ x rest, s.answers = .ok x :: rest →
      exec i s = .next (s.ended (responseWord .ok 0)
        [.treq (.write s.cfg.devAddr (a s.cfg) v), .trsp (.ok x)] rest))

/-- The events of a read of register `a` answered with `r` and the request to write `w` to it. -/
def readWriteEvents (dev : DevAddr) (a r w : Byte) : List Event :=
  [.treq (.read dev a), .trsp (.ok r), .treq (.write dev a w)]

/-- Started in EXEC, the command reads register `a` and writes back a byte combined from the byte read: what happens up
to the answer of the write. A read that fails is followed by no write; a read that succeeds is followed by the write in
every case (R138). -/
def ReadsThenWrites (i : Instr) (a : Config → Byte) (combine : Config → Byte → Byte) (s : State) : Prop :=
    (s.answers = [] → exec i s = .next (s.waitingFirst .rd (.read s.cfg.devAddr (a s.cfg)))) ∧
    (∀ e rest, s.answers = .err e :: rest →
      exec i s = .next { s.ended (transportErrorWord e)
        [.treq (.read s.cfg.devAddr (a s.cfg)), .trsp (.err e)] rest with einfo := e }) ∧
    (∀ r, s.answers = [.ok r] →
      exec i s = .next { s.waitingLater .wr (.write s.cfg.devAddr (a s.cfg) (combine s.cfg r))
        (readWriteEvents s.cfg.devAddr (a s.cfg) r (combine s.cfg r)) with lat := r }) ∧
    (∀ r e rest, s.answers = .ok r :: .err e :: rest →
      exec i s = .next { s.ended (transportErrorWord e)
        (readWriteEvents s.cfg.devAddr (a s.cfg) r (combine s.cfg r) ++ [.trsp (.err e)]) rest
          with lat := r, einfo := e })

/-- The end of a read-modify-write command that does not verify: the write's `ok` is answered OK with payload 0. -/
def EndsAfterWrite (i : Instr) (a : Config → Byte) (combine : Config → Byte → Byte) (s : State) : Prop :=
  ∀ r x rest, s.answers = .ok r :: .ok x :: rest →
    exec i s = .next { s.ended (responseWord .ok 0)
      (readWriteEvents s.cfg.devAddr (a s.cfg) r (combine s.cfg r) ++ [.trsp (.ok x)]) rest with lat := r }

/-- The events of a verifying command up to the read-back's request. -/
def readBackEvents (dev : DevAddr) (a r w x : Byte) : List Event :=
  readWriteEvents dev a r w ++ [.trsp (.ok x), .treq (.read dev a)]

/-- The end of a verifying command: after the write's `ok` the register is read back, and every bit of the mask `m` must
be 1 in the byte read back, which VLAT and a failed verification's payload hold (R137, R186). -/
def VerifiesAfterWrite (i : Instr) (a m : Config → Byte) (s : State) : Prop :=
    (∀ r x, s.answers = [.ok r, .ok x] →
      exec i s = .next { s.waitingLater .vrd (.read s.cfg.devAddr (a s.cfg))
        (readBackEvents s.cfg.devAddr (a s.cfg) r (r ||| m s.cfg) x) with lat := r }) ∧
    (∀ r x e rest, s.answers = .ok r :: .ok x :: .err e :: rest →
      exec i s = .next { s.ended (transportErrorWord e)
        (readBackEvents s.cfg.devAddr (a s.cfg) r (r ||| m s.cfg) x ++ [.trsp (.err e)]) rest
          with lat := r, einfo := e }) ∧
    (∀ r x v rest, s.answers = .ok r :: .ok x :: .ok v :: rest →
      exec i s = .next { s.ended
        (if v &&& m s.cfg = m s.cfg then responseWord .ok 0
          else responseWord (.error .verificationFailed) (zext16 v))
        (readBackEvents s.cfg.devAddr (a s.cfg) r (r ||| m s.cfg) x ++ [.trsp (.ok v)]) rest
          with lat := r, vlat := v })

/-! ### Answers that come later (R241) -/

/-- The answers the requests in progress and to come have once the transport has given `more`, after the answers it
already gave (R51, R241). -/
def State.answersAfter (s : State) (more : List TRsp) : List TRsp :=
  ({ s with trspIn := s.trspIn ++ more } : State).answers

/-! ### What a host can see (R20) -/

/-- A state with its latches' values hidden: the part of it no rule of a later command can tell apart (R20, R43, U17 of
`spec/93_implementation_defined.md`). -/
def State.hideLatches (s : State) : State := { s with cmd := 0, lat := 0, vlat := 0, einfo := 0 }

/-- Two states agree but for the latches that no rule reads: LAT, VLAT and EINFO everywhere, CMD where no command is in
progress (R20, R21). -/
def SameBut (s t : State) : Prop :=
  s.hideLatches = t.hideLatches ∧ (s.phase = .idle ∨ s.phase = .resp ∨ s.cmd = t.cmd)

/-- Two outcomes of the same kind, with states that agree but for the unread latches. -/
def OutcomeSameBut : Result → Result → Prop
  | .next s,    .next t    => SameBut s t
  | .fault a,   .fault b   => a = b
  | .refused a, .refused b => a = b
  | _,          _          => False

end Sys2Proof.Machine
end

