-- ==== Sys2Proof/Certificates/Slice0/Obligations.lean ====
section
/-! DEFINITION. The statements about CORE, for the provers. The words they are stated in are the model's and those of
Safety.lean. A statement marked with a log entry rests on a choice of the model's there. -/

open Sys2Proof Sys2Proof.Machine

/-! ### Encoding -/

/-- Every command, with every operand, is read back from its word (R80 to R84). -/
def Obligations.DecodeOfEncodeIsTheCommand : Prop :=
  ∀ i : Instr, decode (encode i) = some i

/-- R85: a word that decodes is the one word of its command, so every field its format does not list is 0 and no two
words mean the same command. -/
def Obligations.EncodeOfDecodeIsTheWord : Prop :=
  ∀ (w : Word) (i : Instr), decode w = some i → encode i = w

/-- R92's three reasons are exactly when a word is illegal: operation unassigned, selector out of range, or a
must-be-zero field not 0. -/
def Obligations.IllegalWordsAreTheIllFormed : Prop :=
  ∀ w : Word, decode w = none ↔ (RawCmd.ofWord w).wellFormed = false

/-- R84, R93, R95: the opcode table has 24 rows, no word meets two of them, and a word that meets a row is that row's
command with the fields of its format. -/
def Obligations.OpcodeRowsAreDisjointAndDecide : Prop :=
  opcodeRows.length = 24 ∧
  opcodeRows.Pairwise (fun x y => ∀ w, ¬ (x.accepts w = true ∧ y.accepts w = true)) ∧
  ∀ row ∈ opcodeRows, ∀ w, row.accepts w = true →
    ∃ i, row.build (RawCmd.ofWord w) = some i ∧ decode w = some i

/-- R96's table of examples: each text is the command, the command's word is the word printed there, and the word
decodes to the command. -/
def Obligations.PrintedExamplesDecode : Prop :=
  ∀ x ∈ [("ENC VBAT, 4200", 0x08001068#32, Instr.enc .vbat 4200),
         ("SET_ICHG 6000", 0x81001770#32, Instr.setIchg 6000),
         ("DEC VBAT, 0x8C", 0x108C0000#32, Instr.dec .vbat 0x8C),
         ("DFL INT_STAT, 0x88", 0x48880000#32, Instr.dfl .intStat 0x88),
         ("DMS CHG_STAT, 0x04", 0x50040000#32, Instr.dms .chgStat 0x04),
         ("RDB 0x07", 0x18070000#32, Instr.rdb 0x07),
         ("WRB 0x00, 0x8C", 0x2000008C#32, Instr.wrb 0x00 0x8C),
         ("RMO 0x06, 0x08", 0x28060800#32, Instr.rmo 0x06 0x08),
         ("WBF 0x05, 0x30, 0x10", 0x38053010#32, Instr.wbf 0x05 0x30 0x10),
         ("GET_CHG_STAT", 0xC0000000#32, Instr.getChgStat)],
    Assembler.assemble x.1 = some x.2.2 ∧ encode x.2.2 = x.2.1 ∧ decode x.2.1 = some x.2.2

/-! ### The scaler -/

/-- R31's table: step, offset and bounds of the four fields, whatever their addresses are, and the raw bytes at the two
bounds. -/
def Obligations.FieldDescriptorTable : Prop :=
  ∀ g : Config,
    fieldDesc g .vbat = ⟨g.faddrVbat, 5, 3500, 3500, 4775⟩ ∧
    fieldDesc g .ichg = ⟨g.faddrIchg, 50, 0, 0, 6000⟩ ∧
    fieldDesc g .vindpm = ⟨g.faddrVindpm, 100, 3900, 3900, 14000⟩ ∧
    fieldDesc g .iindpm = ⟨g.faddrIindpm, 100, 500, 500, 3600⟩ ∧
    (encodeScaled (fieldDesc g .vbat) 3500 = some 0x00 ∧ encodeScaled (fieldDesc g .vbat) 4775 = some 0xFF) ∧
    (encodeScaled (fieldDesc g .ichg) 0 = some 0x00 ∧ encodeScaled (fieldDesc g .ichg) 6000 = some 0x78) ∧
    (encodeScaled (fieldDesc g .vindpm) 3900 = some 0x00 ∧ encodeScaled (fieldDesc g .vindpm) 14000 = some 0x65) ∧
    (encodeScaled (fieldDesc g .iindpm) 500 = some 0x00 ∧ encodeScaled (fieldDesc g .iindpm) 3600 = some 0x1F)

/-- R32: the four descriptors are well formed, and for every well-formed descriptor saturation never changes a value
that passed the range check. -/
def Obligations.SaturationNeverChangesAValue : Prop :=
  (∀ (g : Config) (f : ScaledField), (fieldDesc g f).wellFormed = true) ∧
  ∀ (d : FieldDesc) (p : Phys), d.wellFormed = true → inRange d p = true →
    0 ≤ Int.fdiv ((p.toNat : Int) - d.off) d.lsb ∧ Int.fdiv ((p.toNat : Int) - d.off) d.lsb ≤ 255 ∧
    ((scale d p).toNat : Int) = Int.fdiv ((p.toNat : Int) - d.off) d.lsb

/-- R110: ENC answers the quotient rounded down when the value is in the closed range, and OUT_OF_RANGE with payload 0
otherwise; nothing but PHASE and the response port changes. -/
def Obligations.EncEncodesOrRejects : Prop :=
  ∀ (f : ScaledField) (p : Phys) (s : State), s.phase = .exec →
    let d := fieldDesc s.cfg f
    (d.min ≤ p.toNat ∧ p.toNat ≤ d.max →
      exec (.enc f p) s = .next { s with
        phase := .resp
        rsp := some (responseWord .ok (BitVec.ofNat 16 ((p.toNat - d.off) / d.lsb))) }) ∧
    (¬ (d.min ≤ p.toNat ∧ p.toNat ≤ d.max) → RejectedBy (.enc f p) .outOfRange s)

/-- R111: DEC answers `raw * lsb + off` for every byte, exactly (no truncation); nothing but PHASE and the response port
changes. -/
def Obligations.DecDecodesEveryByte : Prop :=
  ∀ (f : ScaledField) (raw : Byte) (s : State), s.phase = .exec →
    ∃ phys : Phys, phys.toNat = raw.toNat * (fieldDesc s.cfg f).lsb + (fieldDesc s.cfg f).off ∧
      exec (.dec f raw) s = .next { s with phase := .resp, rsp := some (responseWord .ok phys) }

/-- R113: decoding what ENC answers gives the value rounded down to the step grid that starts at the offset: a value of
the grid, at most the value encoded and less than one step below it, and equal to it exactly when it is on the grid. -/
def Obligations.ScalerRoundTripWithinOneStep : Prop :=
  ∀ (f : ScaledField) (p : Phys) (s : State), s.phase = .exec →
    (fieldDesc s.cfg f).min ≤ p.toNat → p.toNat ≤ (fieldDesc s.cfg f).max →
    ∃ (raw : Byte) (p' : Phys),
      exec (.enc f p) s = .next { s with phase := .resp, rsp := some (responseWord .ok (zext16 raw)) } ∧
      exec (.dec f raw) s = .next { s with phase := .resp, rsp := some (responseWord .ok p') } ∧
      ((fieldDesc s.cfg f).off ≤ p'.toNat ∧ (fieldDesc s.cfg f).lsb ∣ p'.toNat - (fieldDesc s.cfg f).off) ∧
      p.toNat < p'.toNat + (fieldDesc s.cfg f).lsb ∧ p'.toNat ≤ p.toNat ∧
      (p' = p ↔ (fieldDesc s.cfg f).lsb ∣ p.toNat - (fieldDesc s.cfg f).off)

/-- R114: encoding what DEC answers gives the byte back when it is in the field's range, and OUT_OF_RANGE otherwise; it
is in range exactly when the byte is at most the field's largest raw byte. -/
def Obligations.EncOfDecIsTheByteOrOutOfRange : Prop :=
  ∀ (f : ScaledField) (r : Byte) (s : State), s.phase = .exec →
    ∃ p : Phys,
      exec (.dec f r) s = .next { s with phase := .resp, rsp := some (responseWord .ok p) } ∧
      (p.toNat ≤ (fieldDesc s.cfg f).max ↔
        r.toNat ≤ ((fieldDesc s.cfg f).max - (fieldDesc s.cfg f).off) / (fieldDesc s.cfg f).lsb) ∧
      (p.toNat ≤ (fieldDesc s.cfg f).max →
        exec (.enc f p) s = .next { s with phase := .resp, rsp := some (responseWord .ok (zext16 r)) }) ∧
      (¬ p.toNat ≤ (fieldDesc s.cfg f).max → RejectedBy (.enc f p) .outOfRange s)

/-- R115: ENC is monotonic within a field's range, and rejects every value outside it, for all four fields. -/
def Obligations.EncIsMonotonic : Prop :=
  ∀ (f : ScaledField) (s : State), s.phase = .exec →
    (∀ p q : Phys, (fieldDesc s.cfg f).min ≤ p.toNat → p.toNat ≤ q.toNat → q.toNat ≤ (fieldDesc s.cfg f).max →
      ∃ x y : Byte,
        exec (.enc f p) s = .next { s with phase := .resp, rsp := some (responseWord .ok (zext16 x)) } ∧
        exec (.enc f q) s = .next { s with phase := .resp, rsp := some (responseWord .ok (zext16 y)) } ∧
        x.toNat ≤ y.toNat) ∧
    (∀ p : Phys, p.toNat < (fieldDesc s.cfg f).min ∨ (fieldDesc s.cfg f).max < p.toNat →
      RejectedBy (.enc f p) .outOfRange s)

/-! ### The sequencers -/

/-- R132: RDB reads the register the command names, any byte, and answers the byte read. -/
def Obligations.RdbReadsTheRegister : Prop :=
  ∀ a : Byte, ReadsThenResponds (.rdb a) (fun _ => a) (fun _ r => zext16 r)

/-- R133: WRB writes the byte to the register, once, without a read. -/
def Obligations.WrbWritesTheByte : Prop :=
  ∀ (a v : Byte) (s : State), s.phase = .exec → WritesOnce (.wrb a v) (fun _ => a) v s

/-- R134: RMO writes back the byte read with the mask's bits set, every other bit as read. -/
def Obligations.RmoSetsTheMaskBits : Prop :=
  ∀ (a m : Byte) (s : State), s.phase = .exec →
    ReadsThenWrites (.rmo a m) (fun _ => a) (fun _ r => r ||| m) s ∧
    EndsAfterWrite (.rmo a m) (fun _ => a) (fun _ r => r ||| m) s

/-- R135: RMC writes back the byte read with the mask's bits cleared, every other bit as read. -/
def Obligations.RmcClearsTheMaskBits : Prop :=
  ∀ (a m : Byte) (s : State), s.phase = .exec →
    ReadsThenWrites (.rmc a m) (fun _ => a) (fun _ r => r &&& ~~~m) s ∧
    EndsAfterWrite (.rmc a m) (fun _ => a) (fun _ r => r &&& ~~~m) s

/-- R136: WBF turns away a value with a bit outside the mask before any transaction, and otherwise writes back the byte
read with the mask's bits replaced by the value. -/
def Obligations.WbfReplacesTheField : Prop :=
  ∀ (a m v : Byte) (s : State), s.phase = .exec →
    (v &&& ~~~m ≠ 0 → RejectedBy (.wbf a m v) .invalidFieldValue s) ∧
    (v &&& ~~~m = 0 →
      ReadsThenWrites (.wbf a m v) (fun _ => a) (fun _ r => (r &&& ~~~m) ||| v) s ∧
      EndsAfterWrite (.wbf a m v) (fun _ => a) (fun _ r => (r &&& ~~~m) ||| v) s)

/-- R137: RMOV writes back the byte read with the mask's bits set, reads the register back, and answers OK exactly when
every bit of the mask is 1 in the byte read back. -/
def Obligations.RmovVerifiesTheMaskBits : Prop :=
  ∀ (a m : Byte) (s : State), s.phase = .exec →
    ReadsThenWrites (.rmov a m) (fun _ => a) (fun _ r => r ||| m) s ∧
    VerifiesAfterWrite (.rmov a m) (fun _ => a) (fun _ => m) s

/-- R138, R139: whenever the read succeeded (and a WBF's value is confined to its mask) the write is issued, whatever the
byte is, and the byte written has the mask's bits as the command says and every other bit as it was read. -/
def Obligations.SequencerWriteIsUnconditionalAndKeepsOtherBits : Prop :=
  ∀ (a m v r : Byte) (more : List TRsp) (s : State), s.phase = .exec → s.answers = .ok r :: more →
    (∃ t w tail, exec (.rmo a m) s = .next t ∧
      t.trace = s.trace ++ readWriteEvents s.cfg.devAddr a r w ++ tail ∧
      w &&& m = m ∧ w &&& ~~~m = r &&& ~~~m) ∧
    (∃ t w tail, exec (.rmc a m) s = .next t ∧
      t.trace = s.trace ++ readWriteEvents s.cfg.devAddr a r w ++ tail ∧
      w &&& m = 0 ∧ w &&& ~~~m = r &&& ~~~m) ∧
    (v &&& ~~~m = 0 → ∃ t w tail, exec (.wbf a m v) s = .next t ∧
      t.trace = s.trace ++ readWriteEvents s.cfg.devAddr a r w ++ tail ∧
      w &&& m = v ∧ w &&& ~~~m = r &&& ~~~m) ∧
    (∃ t w tail, exec (.rmov a m) s = .next t ∧
      t.trace = s.trace ++ readWriteEvents s.cfg.devAddr a r w ++ tail ∧
      w &&& m = m ∧ w &&& ~~~m = r &&& ~~~m)

/-- R97: `CLRF addr, mask` has the outcome of `RMC addr, mask` in every state. -/
def Obligations.ClrfHasTheOutcomeOfRmc : Prop :=
  ∀ (a m : Byte) (s : State), exec (Assembler.clrf a m) s = exec (.rmc a m) s

/-! ### The extractor -/

/-- R160, R90: DFL answers the hit vector: bit i is 1 exactly when descriptor i of the set exists and its mask is fully
set in the byte; nothing but PHASE and the response port changes. -/
def Obligations.DflAnswersTheHitVector : Prop :=
  ∀ (k : FlagSet) (raw : Byte) (s : State), s.phase = .exec →
    ∃ h : Phys,
      exec (.dfl k raw) s = .next { s with phase := .resp, rsp := some (responseWord .ok h) } ∧
      ∀ i < 16, (h.getLsbD i = true ↔
        ∃ d, (descs s.cfg k)[i]? = some d ∧ raw &&& d.mask = d.mask)

/-- R161: for a well-formed configuration DFL answers the empty vector for 0x00 and the one bit `2^i` for descriptor i's
mask, and setting more bits of the byte never clears a bit of the vector. -/
def Obligations.DflPropertiesOfWellFormedSets : Prop :=
  ∀ (k : FlagSet) (s : State), s.phase = .exec → s.cfg.wellFormed = true →
    exec (.dfl k 0) s = .next { s with phase := .resp, rsp := some (responseWord .ok 0) } ∧
    (∀ (i : Nat) (d : FlagDesc), (descs s.cfg k)[i]? = some d →
      exec (.dfl k d.mask) s = .next { s with phase := .resp, rsp := some (responseWord .ok (BitVec.ofNat 16 (2 ^ i))) }) ∧
    (∀ r q : Byte, r &&& q = r → ∃ x y : Phys,
      exec (.dfl k r) s = .next { s with phase := .resp, rsp := some (responseWord .ok x) } ∧
      exec (.dfl k q) s = .next { s with phase := .resp, rsp := some (responseWord .ok y) } ∧ x &&& y = x)

/-- R90, R162: the names recovered from a hit vector are those of the descriptors whose mask is fully set, in declaration
order, for every set of at most 16 descriptors. -/
def Obligations.HitVectorCarriesTheOrderedConditions : Prop :=
  ∀ (ds : List FlagDesc) (r : Byte), ds.length ≤ 16 →
    conditionNames ds (hitVector ds r) = (ds.filter fun d => (r &&& d.mask) == d.mask).map FlagDesc.name

/-- R165, R91: DMS answers 0 exactly when no entry's pattern is the masked byte, and j + 1 exactly when entry j is the
first whose pattern is; bits outside the mask never matter. -/
def Obligations.DmsAnswersTheFirstMatch : Prop :=
  ∀ (t : TableId) (raw : Byte) (s : State), s.phase = .exec → s.cfg.wellFormed = true →
    exec (.dms t raw) s = exec (.dms t (raw &&& (stateTable s.cfg t).mask)) s ∧
    ∃ n ≤ 15,
      exec (.dms t raw) s = .next { s with phase := .resp, rsp := some (responseWord .ok (BitVec.ofNat 16 n)) } ∧
      (n = 0 ↔ ∀ e ∈ (stateTable s.cfg t).ent, raw &&& (stateTable s.cfg t).mask ≠ e.pat) ∧
      ∀ j, n = j + 1 ↔
        (∃ e, (stateTable s.cfg t).ent[j]? = some e ∧ raw &&& (stateTable s.cfg t).mask = e.pat) ∧
        ∀ j' < j, ∀ e, (stateTable s.cfg t).ent[j']? = some e → raw &&& (stateTable s.cfg t).mask ≠ e.pat

/-- R36, R166: under every well-formed configuration the charge status has three results: OFF (0), CONSTANT_CURRENT (1)
and CONSTANT_VOLTAGE (2); 0x04 is CONSTANT_VOLTAGE, 0x00 is OFF, and CS_CC_PAT is CONSTANT_CURRENT. -/
def Obligations.ChargeStatusHasThreeResults : Prop :=
  ∀ s : State, s.phase = .exec → s.cfg.wellFormed = true →
    (∀ raw : Byte, exec (.dms .chgStat raw) s = .next { s with
      phase := .resp
      rsp := some (responseWord .ok
        (if raw &&& s.cfg.csMask = s.cfg.csCcPat then 1 else if raw &&& s.cfg.csMask = 0x04 then 2 else 0)) }) ∧
    exec (.dms .chgStat 0x04) s = .next { s with phase := .resp, rsp := some (responseWord .ok 2) } ∧
    exec (.dms .chgStat 0x00) s = .next { s with phase := .resp, rsp := some (responseWord .ok 0) } ∧
    exec (.dms .chgStat s.cfg.csCcPat) s = .next { s with phase := .resp, rsp := some (responseWord .ok 1) } ∧
    stateName (stateTable s.cfg .chgStat) 0 = "OFF" ∧
    stateName (stateTable s.cfg .chgStat) 1 = "CONSTANT_CURRENT" ∧
    stateName (stateTable s.cfg .chgStat) 2 = "CONSTANT_VOLTAGE"

/-! ### The composites -/

/-- R181 to R184: each setter writes the encoded byte to its field's register, once and whole, without a read, or turns
the value away with OUT_OF_RANGE before any transaction. -/
def Obligations.SettersWriteTheEncodedByte : Prop :=
  ∀ (p : Phys) (s : State), s.phase = .exec →
    ∀ x ∈ [(Instr.setVbat p, ScaledField.vbat), (Instr.setIchg p, ScaledField.ichg),
           (Instr.setVindpm p, ScaledField.vindpm), (Instr.setIindpm p, ScaledField.iindpm)],
      let d := fieldDesc s.cfg x.2
      (d.min ≤ p.toNat ∧ p.toNat ≤ d.max →
        WritesOnce x.1 (fun g => faddr g x.2) (BitVec.ofNat 8 ((p.toNat - d.off) / d.lsb)) s) ∧
      (¬ (d.min ≤ p.toNat ∧ p.toNat ≤ d.max) → RejectedBy x.1 .outOfRange s)

/-- R181 to R185: a setter started in EXEC with a value in range issues one request and no other, the write of the whole
encoded byte to its field's register, whatever the transport has answered; bits 7 of the byte of SET_ICHG and SET_VINDPM
and bits 7:5 of the byte of SET_IINDPM are 0. With a value out of range it issues none. So no setter reads. -/
def Obligations.SettersWriteUpperBitsAsZero : Prop :=
  ∀ (p : Phys) (s : State), s.phase = .exec →
    ∀ x ∈ [(Instr.setVbat p, ScaledField.vbat, (0x00 : Byte)), (Instr.setIchg p, ScaledField.ichg, (0x80 : Byte)),
           (Instr.setVindpm p, ScaledField.vindpm, (0x80 : Byte)), (Instr.setIindpm p, ScaledField.iindpm, (0xE0 : Byte))],
      let d := fieldDesc s.cfg x.2.1
      ∃ t evs, exec x.1 s = .next t ∧ t.trace = s.trace ++ evs ∧
        (d.min ≤ p.toNat ∧ p.toNat ≤ d.max →
          ∃ v : Byte, requestsOf evs = [.write s.cfg.devAddr (faddr s.cfg x.2.1) v] ∧
            v = BitVec.ofNat 8 ((p.toNat - d.off) / d.lsb) ∧ v &&& x.2.2 = 0) ∧
        (¬ (d.min ≤ p.toNat ∧ p.toNat ≤ d.max) → requestsOf evs = [])

/-- R186: CHG_EN sets the enable bit and verifies it; a read-back that does not show it is VERIFICATION_FAILED with the
byte read back, and no other error. -/
def Obligations.ChgEnSetsAndVerifiesTheEnableBit : Prop :=
  ∀ s : State, s.phase = .exec →
    ReadsThenWrites .chgEn Config.chgAddr (fun g r => r ||| g.chgEnMask) s ∧
    VerifiesAfterWrite .chgEn Config.chgAddr Config.chgEnMask s

/-- R187 to R189: CHG_DIS clears the enable bit, WD_DIS replaces the watchdog field by its off code, REG_RST sets the
reset bits, each by one read and one write and without verification. -/
def Obligations.ControlCommandsReadThenWrite : Prop :=
  ∀ s : State, s.phase = .exec →
    (ReadsThenWrites .chgDis Config.chgAddr (fun g r => r &&& ~~~g.chgEnMask) s ∧
      EndsAfterWrite .chgDis Config.chgAddr (fun g r => r &&& ~~~g.chgEnMask) s) ∧
    (ReadsThenWrites .wdDis Config.wdAddr (fun g r => (r &&& ~~~g.wdMask) ||| g.wdOffCode) s ∧
      EndsAfterWrite .wdDis Config.wdAddr (fun g r => (r &&& ~~~g.wdMask) ||| g.wdOffCode) s) ∧
    (ReadsThenWrites .regRst Config.rstAddr (fun g r => r ||| g.rstMask) s ∧
      EndsAfterWrite .regRst Config.rstAddr (fun g r => r ||| g.rstMask) s)

/-- R195 to R199: each read-back command reads its register once and answers the byte decoded by its own table. -/
def Obligations.ReadBacksReadThenDecode : Prop :=
  ReadsThenResponds .getChgStat Config.intStatAddr (fun g r => stateCode (stateTable g .chgStat) r) ∧
  ReadsThenResponds .getIntStat Config.intStatAddr (fun g r => hitVector g.dsIntStat r) ∧
  ReadsThenResponds .getFltStat Config.fltStatAddr (fun g r => hitVector g.dsFltStat r) ∧
  ReadsThenResponds .getIntFlag Config.intFlagAddr (fun g r => hitVector g.dsIntFlag r) ∧
  ReadsThenResponds .getFltFlag Config.fltFlagAddr (fun g r => hitVector g.dsFltFlag r)

/-- R180 with the expansions of R181 to R189 and R195 to R199: a composite has the outcome of its primitives run in
order. CHG_EN is RMOV, CHG_DIS is RMC, REG_RST is RMO and WD_DIS is WBF with the configuration's constants, in every
phase; a setter is ENC and then WRB of the byte ENC answers; a read-back is RDB and then DMS or DFL of the byte read. -/
def Obligations.CompositesHaveTheOutcomeOfTheirExpansion : Prop :=
  ∀ s : State,
    exec .chgEn s = exec (.rmov s.cfg.chgAddr s.cfg.chgEnMask) s ∧
    exec .chgDis s = exec (.rmc s.cfg.chgAddr s.cfg.chgEnMask) s ∧
    exec .regRst s = exec (.rmo s.cfg.rstAddr s.cfg.rstMask) s ∧
    (s.cfg.wellFormed = true → exec .wdDis s = exec (.wbf s.cfg.wdAddr s.cfg.wdMask s.cfg.wdOffCode) s) ∧
    (s.phase = .exec → ∀ (f : ScaledField) (p : Phys),
      (∃ raw, exec (.enc f p) s = .next { s with phase := .resp, rsp := some (responseWord .ok (zext16 raw)) } ∧
        exec (Assembler.setl f p) s = exec (.wrb (faddr s.cfg f) raw) s) ∨
      (RejectedBy (.enc f p) .outOfRange s ∧ exec (Assembler.setl f p) s = exec (.enc f p) s)) ∧
    (s.phase = .exec →
      ∀ x ∈ [(Instr.getChgStat, s.cfg.intStatAddr, Instr.dms .chgStat),
             (Instr.getIntStat, s.cfg.intStatAddr, Instr.dfl .intStat),
             (Instr.getFltStat, s.cfg.fltStatAddr, Instr.dfl .fltStat),
             (Instr.getIntFlag, s.cfg.intFlagAddr, Instr.dfl .intFlag),
             (Instr.getFltFlag, s.cfg.fltFlagAddr, Instr.dfl .fltFlag)],
        ((∀ r rest, s.answers ≠ .ok r :: rest) → exec x.1 s = exec (.rdb x.2.1) s) ∧
        (∀ r rest, s.answers = .ok r :: rest → ∃ t u, exec (.rdb x.2.1) s = .next t ∧
          exec (x.2.2 r) s = .next u ∧ exec x.1 s = .next { t with rsp := u.rsp }))

/-! ### Responses and errors -/

/-- R86, R87: a response word is the status code, twelve zeros and the payload, with the codes of R87's table; codes 0x5
to 0xE are never produced. -/
def Obligations.ResponseWordFields : Prop :=
  (∀ (st : Status) (p : Phys),
    (responseWord st p).extractLsb' 28 4 = st.code ∧ (responseWord st p).extractLsb' 16 12 = 0 ∧
    (responseWord st p).extractLsb' 0 16 = p ∧ (st.code.toNat < 5 ∨ st.code.toNat = 15)) ∧
  Status.code .ok = 0x0 ∧ Status.code (.error .outOfRange) = 0x1 ∧ Status.code (.error .invalidFieldValue) = 0x2 ∧
  Status.code (.error .transportError) = 0x3 ∧ Status.code (.error .verificationFailed) = 0x4 ∧
  Status.code (.error .illegalCmd) = 0xF

/-- R92, R216: an illegal word presented in IDLE is accepted and answered with status ILLEGAL_CMD and payload 0; it
changes no latch but CMD and causes no transaction. (That one step accepts and answers it is the model's choice, log 3.) -/
def Obligations.IllegalWordIsAnsweredIllegalCmd : Prop :=
  ∀ (s : State) (w : Word) (ws : List Word), s.cfg.wellFormed = true → s.rstIn = false → s.phase = .idle →
    s.cmdIn = w :: ws → (RawCmd.ofWord w).wellFormed = false →
    step s = .next { s with
      phase := .resp, cmd := w, cmdIn := ws, rsp := some 0xF0000000#32, trace := s.trace ++ [.cmd w] }

/-- R211: no command raises a kind the table does not give it. -/
def Obligations.CommandsRaiseOnlyTheirKinds : Prop :=
  ∀ (i : Instr) (s t : State), exec i s = .next t → t.phase = .resp →
    ∃ st p, t.rsp = some (responseWord st p) ∧ ∀ k, st = .error k → mayRaise i k = true

/-- R213: operand validation comes before any transaction: a command whose validation fails is answered with its kind
and payload 0 whatever the transport would answer, and nothing reaches the transport. -/
def Obligations.ValidationComesBeforeTheTransport : Prop :=
  ∀ (i : Instr) (s : State) (k : ErrorKind), s.phase = .exec → validation s.cfg i = some k → RejectedBy i k s

/-- R54, R212, R214: in every waiting phase of every command, an `Err` from the transport ends the command at once with
TRANSPORT_ERROR and the transport's information unchanged; no further request is issued and no answer but that one is
taken. -/
def Obligations.TransportErrorEndsTheCommandAtOnce : Prop :=
  ∀ (s : State) (e : Byte) (rest : List TRsp), Safe s → s.rstIn = false →
    (s.phase = .rd ∨ s.phase = .wr ∨ s.phase = .vrd) → s.answers = .err e :: rest →
    step s = .next { s.ended (transportErrorWord e) [.trsp (.err e)] rest with einfo := e }

/-- R56: a legal command whose validation passes makes exactly the transactions of the table, in order, and when one of
them answers `Err` it makes that one and none after it; a command whose validation fails and an illegal word make
none. -/
def Obligations.TransactionsAreThoseOfTheTable : Prop :=
  (∀ (i : Instr) (s : State), s.phase = .exec → validation s.cfg i = none →
    (∀ oks rest, oks.length = (transactions i).length → (∀ a ∈ oks, ∃ b, a = TRsp.ok b) → s.answers = oks ++ rest →
      ∃ t evs, exec i s = .next t ∧ t.phase = .resp ∧ t.trace = s.trace ++ evs ∧ t.answers = rest ∧
        (requestsOf evs).map TReq.kind = transactions i) ∧
    (∀ oks e rest, oks.length < (transactions i).length → (∀ a ∈ oks, ∃ b, a = TRsp.ok b) →
      s.answers = oks ++ .err e :: rest →
      ∃ t evs, exec i s = .next t ∧ t.phase = .resp ∧ t.rsp = some (transportErrorWord e) ∧
        t.trace = s.trace ++ evs ∧ t.answers = rest ∧
        (requestsOf evs).map TReq.kind = (transactions i).take (oks.length + 1))) ∧
  (∀ (i : Instr) (s t : State) (k : ErrorKind), s.phase = .exec → validation s.cfg i = some k →
    exec i s = .next t → t.trace = s.trace ∧ t.treq = s.treq) ∧
  (∀ s t : State, s.phase = .exec → execIllegal s = .next t → t.trace = s.trace ∧ t.treq = s.treq)

/-! ### What a command leaves alone -/

/-- The frame of every command, in every state it answers a next state from: the configuration, CMD, the host's inputs
and the free-value counter never change; the history is only extended and answers are only consumed in order; a command
with no transaction leaves every latch, the transport's port and the history alone; only a command that reads writes
LAT (R22), only RMOV and CHG_EN write VLAT (R23), and only a transport error, then reported, writes EINFO (R24). -/
def Obligations.FrameOfEveryCommand : Prop :=
  ∀ (i : Instr) (s t : State), exec i s = .next t →
    (t.cfg = s.cfg ∧ t.cmd = s.cmd ∧ t.cmdIn = s.cmdIn ∧ t.rspReady = s.rspReady ∧ t.rstIn = s.rstIn ∧
      t.draws = s.draws) ∧
    (∃ evs, t.trace = s.trace ++ evs) ∧ (∃ taken, s.answers = taken ++ t.answers) ∧
    (transactions i = [] →
      t.lat = s.lat ∧ t.vlat = s.vlat ∧ t.einfo = s.einfo ∧ t.treq = s.treq ∧ t.trspIn = s.trspIn ∧
        t.abandoned = s.abandoned ∧ t.trace = s.trace) ∧
    (.r ∉ transactions i → t.lat = s.lat) ∧
    (transactions i ≠ [.r, .w, .r] → t.vlat = s.vlat) ∧
    (t.einfo = s.einfo ∨ (t.phase = .resp ∧ t.rsp = some (transportErrorWord t.einfo)))

/-- R45, R131, R180: every transaction a step issues goes to the configured device and to the one register of the
command in CMD. -/
def Obligations.TransactionsGoToTheCommandsRegister : Prop :=
  ∀ s t : State, Safe s → step s = .next t →
    ∃ evs, t.trace = s.trace ++ evs ∧ ∀ q ∈ requestsOf evs, q.dev = s.cfg.devAddr ∧
      ∃ i, decode t.cmd = some i ∧ registerOf s.cfg i = some q.reg

/-- R30: no step and nothing the surroundings do changes the configuration. -/
def Obligations.ConfigurationIsImmutable : Prop :=
  ∀ s t : State, (step s = .next t → t.cfg = s.cfg) ∧ ∀ x : Input, (s.input x).cfg = s.cfg

/-! ### The machine -/

/-- A step runs the decoded command. In IDLE the presented word is latched in CMD, PHASE becomes EXEC, and the step is
`exec` of the command it decodes to there; in EXEC, RD, WR and VRD the step is `exec` of the command in CMD. (That a
command accepted in a step also runs in it is the model's choice, log 3.) -/
def Obligations.StepRunsTheDecodedCommand : Prop :=
  ∀ (s : State) (i : Instr), s.cfg.wellFormed = true → s.rstIn = false →
    (∀ w ws, s.phase = .idle → s.cmdIn = w :: ws → decode w = some i →
      step s = exec i { s with phase := .exec, cmd := w, cmdIn := ws, trace := s.trace ++ [.cmd w] }) ∧
    (s.phase ≠ .idle → s.phase ≠ .resp → decode s.cmd = some i → step s = exec i s)

/-- A step may be cut at any transition of R26's table (log 3). A command accepted by itself and then run has the outcome of
the step that does both; and a command that waits and is then answered has the outcome it has when the answers were
there from the start. -/
def Obligations.WaitingThenResumingIsRunningThrough : Prop :=
  (∀ s : State, s.phase = .idle → s.rstIn = false → s.cmdIn ≠ [] →
    (s.input .acceptAlone).phase = .exec ∧ step (s.input .acceptAlone) = step s) ∧
  ∀ (i : Instr) (s t : State) (more : List TRsp), s.phase = .exec → exec i s = .next t →
    (t.phase = .rd ∨ t.phase = .wr ∨ t.phase = .vrd) →
    exec i { t with trspIn := t.trspIn ++ more } = exec i { s with trspIn := s.trspIn ++ more }

/-- R55: in a waiting phase without an answer and without a reset, CORE makes no step out of it (the model's waiting step
answers the same state, log 16). -/
def Obligations.NoAnswerMeansNoProgress : Prop :=
  ∀ s : State, Safe s → s.rstIn = false → (s.phase = .rd ∨ s.phase = .wr ∨ s.phase = .vrd) → s.answers = [] →
    step s = .next s

/-- R26, R217: in RESP the step is the host taking the response, and then PHASE is IDLE and nothing else of CORE changes,
after an error as after OK (that it changes no latch is the model's reading of R26's action "none", log 8); while the host
does not take it, it stays offered (the waiting step answers the same state, log 16). -/
def Obligations.ResponseIsHeldUntilTaken : Prop :=
  ∀ (s : State) (w : Word), s.cfg.wellFormed = true → s.rstIn = false → s.phase = .resp → s.rsp = some w →
    (s.rspReady = true → step s = .next { s with phase := .idle, rsp := none, trace := s.trace ++ [.rsp w] }) ∧
    (s.rspReady = false → step s = .next s)

/-- R26 ("While PHASE is not IDLE no command is accepted"): a step from another phase takes no word from the host, and
while a command runs CMD keeps it. Two clauses are the model's: a step with a reset pending takes no word in IDLE either,
because the reset comes first (log 15), and CMD is kept also by the step that takes the response into IDLE, where R21
leaves its value unspecified (log 8). -/
def Obligations.CommandsAreAcceptedOnlyInIdle : Prop :=
  ∀ s t : State, step s = .next t →
    (s.phase ≠ .idle ∨ s.rstIn = true → t.cmdIn = s.cmdIn) ∧
    (s.phase ≠ .idle → s.rstIn = false → t.cmd = s.cmd)

/-- R240: a reset event, in any phase, leaves PHASE at IDLE, abandons the command without a response, keeps the
configuration, issues no transaction, and takes nothing from the host or the transport. The latches' values are not
stated. That the very next step with a reset pending is the reset, before a word presented or an answer at hand is taken,
is the model's choice (log 15). -/
def Obligations.ResetEventAbandonsTheCommand : Prop :=
  ∀ s : State, s.cfg.wellFormed = true → s.rstIn = true →
    ∃ t, step s = .next t ∧ t.phase = .idle ∧ t.rsp = none ∧ t.treq = none ∧ t.cfg = s.cfg ∧ t.rstIn = false ∧
      t.trace = s.trace ++ [.rst] ∧ t.cmdIn = s.cmdIn ∧ t.trspIn = s.trspIn ∧ t.rspReady = s.rspReady

/-- R241: a reset while a request is outstanding leaves its answer to be ignored, whether the transport has given it yet or
gives it after the reset: whatever `more` the transport answers later, the answers the next requests get are those that
follow the abandoned request's. A reset with nothing outstanding ignores none. Until the abandoned request's answer
comes, steps that find no answer leave it to be ignored, so a new request issued meanwhile does not get it. (That answers
come in the order of the requests is the model's choice, log 6; that the next step with a reset pending is the reset is
log 15.) -/
def Obligations.AbandonedAnswerIsIgnored : Prop :=
  ∀ s t : State, step s = .next t → ∀ more : List TRsp,
    (s.rstIn = true → s.treq.isSome → t.answersAfter more = (s.answersAfter more).drop 1) ∧
    (s.rstIn = true → s.treq = none → t.answersAfter more = s.answersAfter more) ∧
    (s.rstIn = false → s.answers = [] → t.answersAfter more = s.answersAfter more)

/-- R32 and U15: an ill-formed configuration is refused, and nothing else is. -/
def Obligations.OnlyIllFormedConfigurationsAreRefused : Prop :=
  ∀ s : State, (s.cfg.wellFormed = false → step s = .refused .illFormedConfig) ∧
    (∀ r, step s = .refused r → r = .illFormedConfig ∧ s.cfg.wellFormed = false)

/-- R240, R242, R42: right after reset PHASE is IDLE with nothing outstanding and nothing offered, the configuration
(REFCFG, log 1) is well formed, and the invariants below hold. CORE then waits in IDLE: the step from State.reset answers
State.reset, because the model's State.reset has no word presented and no reset pending (log 10) and a waiting step keeps
the state (log 16). -/
def Obligations.ResetStateIsIdleAndSafe : Prop :=
  State.reset.phase = .idle ∧ State.reset.treq = none ∧ State.reset.rsp = none ∧ Safe State.reset ∧
    HistoryFits State.reset ∧ step State.reset = .next State.reset

/-- Every step keeps PHASE, the outstanding request and the offered response in agreement: a request is outstanding
exactly in RD, WR and VRD, it is the one R26 gives CMD's command there, and the byte of an outstanding write is the one
computed from LAT. Everything the surroundings do keeps it too. -/
def Obligations.EveryStepKeepsTheMachineCoherent : Prop :=
  ∀ s : State, Safe s → (∀ t, step s = .next t → Safe t) ∧ ∀ x : Input, Safe (s.input x)

/-- From every coherent state under a well-formed configuration a step answers a next state: no fault and no refusal. -/
def Obligations.SafeStatesNeverStop : Prop :=
  ∀ s : State, Safe s → ∃ t, step s = .next t

/-- R53, R66: every step keeps the ports' protocol: a command only when none is in progress, one transaction at a time,
each answered before the next, at most three, the response only when none is outstanding. Everything the surroundings do
keeps it too. -/
def Obligations.EveryStepKeepsThePortProtocol : Prop :=
  ∀ s : State, Safe s → HistoryFits s → (∀ t, step s = .next t → HistoryFits t) ∧ ∀ x : Input, HistoryFits (s.input x)

/-- Whatever the host, the transport and resets do, from a safe state whose history follows the protocol every state
reached is safe, follows the protocol, has the same configuration, and can step. -/
def Obligations.EveryReachableStateIsSafe : Prop :=
  ∀ s t : State, Safe s → HistoryFits s → Reach s t →
    Safe t ∧ HistoryFits t ∧ t.cfg = s.cfg ∧ ∃ u, step t = .next u

/-- R86 with the premise of R55 that the transport answers: a command presented in IDLE, with three answers to hand, is
answered with exactly one response word, after at most three transactions, and the host taking it leaves CORE in IDLE
with the next command to come. (That one step runs the command and one takes the response is the model's choice,
log 3.) -/
def Obligations.EveryAnsweredCommandGetsOneResponse : Prop :=
  ∀ (s : State) (w : Word) (ws : List Word), Safe s → s.phase = .idle → s.rstIn = false → s.cmdIn = w :: ws →
    s.rspReady = true → 3 ≤ s.answers.length →
    ∃ t u word evs, step s = .next t ∧ t.phase = .resp ∧ t.rsp = some word ∧ step t = .next u ∧ u.phase = .idle ∧
      u.cmdIn = ws ∧ u.trace = s.trace ++ .cmd w :: (evs ++ [.rsp word]) ∧
      (∀ e ∈ evs, (∃ q, e = .treq q) ∨ ∃ a, e = .trsp a) ∧ (requestsOf evs).length ≤ 3

/-- R20: CORE keeps nothing from one command to the next. Two states that differ only in the latches (LAT, VLAT and EINFO
in any phase; CMD in IDLE and RESP) have, after any number of steps, outcomes that differ only there: the same phases,
requests, responses and history. -/
def Obligations.NothingIsKeptBetweenCommands : Prop :=
  ∀ (k : Nat) (s t : State), SameBut s t →
    OutcomeSameBut (Sys2Proof.core.run k s) (Sys2Proof.core.run k t)
end

