-- ==== Sys2Proof/Laws/State.lean ====
section
/-! SUPPORT. One lemma per field per update of State, and what each update does to the answers the transport still
holds. They are the simp set by which no later proof unfolds a record update. -/

namespace Sys2Proof.Machine
namespace State

variable (s : State)

/-! ### `issue` -/

@[simp] theorem issue_phase (q : TReq) (ph : Phase) : (s.issue q ph).phase = ph := rfl
@[simp] theorem issue_cmd (q : TReq) (ph : Phase) : (s.issue q ph).cmd = s.cmd := rfl
@[simp] theorem issue_lat (q : TReq) (ph : Phase) : (s.issue q ph).lat = s.lat := rfl
@[simp] theorem issue_vlat (q : TReq) (ph : Phase) : (s.issue q ph).vlat = s.vlat := rfl
@[simp] theorem issue_einfo (q : TReq) (ph : Phase) : (s.issue q ph).einfo = s.einfo := rfl
@[simp] theorem issue_treq (q : TReq) (ph : Phase) : (s.issue q ph).treq = some q := rfl
@[simp] theorem issue_rsp (q : TReq) (ph : Phase) : (s.issue q ph).rsp = s.rsp := rfl
@[simp] theorem issue_cfg (q : TReq) (ph : Phase) : (s.issue q ph).cfg = s.cfg := rfl
@[simp] theorem issue_cmdIn (q : TReq) (ph : Phase) : (s.issue q ph).cmdIn = s.cmdIn := rfl
@[simp] theorem issue_trspIn (q : TReq) (ph : Phase) : (s.issue q ph).trspIn = s.trspIn := rfl
@[simp] theorem issue_abandoned (q : TReq) (ph : Phase) : (s.issue q ph).abandoned = s.abandoned := rfl
@[simp] theorem issue_rspReady (q : TReq) (ph : Phase) : (s.issue q ph).rspReady = s.rspReady := rfl
@[simp] theorem issue_rstIn (q : TReq) (ph : Phase) : (s.issue q ph).rstIn = s.rstIn := rfl
@[simp] theorem issue_trace (q : TReq) (ph : Phase) : (s.issue q ph).trace = s.trace ++ [.treq q] := rfl
@[simp] theorem issue_draws (q : TReq) (ph : Phase) : (s.issue q ph).draws = s.draws := rfl
@[simp] theorem issue_answers (q : TReq) (ph : Phase) : (s.issue q ph).answers = s.answers := rfl

/-! ### `issueRead` -/

@[simp] theorem issueRead_phase (ph : Phase) (a : Byte) : (s.issueRead ph a).phase = ph := rfl
@[simp] theorem issueRead_cmd (ph : Phase) (a : Byte) : (s.issueRead ph a).cmd = s.cmd := rfl
@[simp] theorem issueRead_lat (ph : Phase) (a : Byte) : (s.issueRead ph a).lat = s.lat := rfl
@[simp] theorem issueRead_vlat (ph : Phase) (a : Byte) : (s.issueRead ph a).vlat = s.vlat := rfl
@[simp] theorem issueRead_einfo (ph : Phase) (a : Byte) : (s.issueRead ph a).einfo = s.einfo := rfl
@[simp] theorem issueRead_treq (ph : Phase) (a : Byte) : (s.issueRead ph a).treq = some (.read s.cfg.devAddr a) := rfl
@[simp] theorem issueRead_rsp (ph : Phase) (a : Byte) : (s.issueRead ph a).rsp = s.rsp := rfl
@[simp] theorem issueRead_cfg (ph : Phase) (a : Byte) : (s.issueRead ph a).cfg = s.cfg := rfl
@[simp] theorem issueRead_cmdIn (ph : Phase) (a : Byte) : (s.issueRead ph a).cmdIn = s.cmdIn := rfl
@[simp] theorem issueRead_trspIn (ph : Phase) (a : Byte) : (s.issueRead ph a).trspIn = s.trspIn := rfl
@[simp] theorem issueRead_abandoned (ph : Phase) (a : Byte) : (s.issueRead ph a).abandoned = s.abandoned := rfl
@[simp] theorem issueRead_rspReady (ph : Phase) (a : Byte) : (s.issueRead ph a).rspReady = s.rspReady := rfl
@[simp] theorem issueRead_rstIn (ph : Phase) (a : Byte) : (s.issueRead ph a).rstIn = s.rstIn := rfl
@[simp] theorem issueRead_trace (ph : Phase) (a : Byte) : (s.issueRead ph a).trace = s.trace ++ [.treq (.read s.cfg.devAddr a)] := rfl
@[simp] theorem issueRead_draws (ph : Phase) (a : Byte) : (s.issueRead ph a).draws = s.draws := rfl
@[simp] theorem issueRead_answers (ph : Phase) (a : Byte) : (s.issueRead ph a).answers = s.answers := rfl

/-! ### `issueWrite` -/

@[simp] theorem issueWrite_phase (a v : Byte) : (s.issueWrite a v).phase = .wr := rfl
@[simp] theorem issueWrite_cmd (a v : Byte) : (s.issueWrite a v).cmd = s.cmd := rfl
@[simp] theorem issueWrite_lat (a v : Byte) : (s.issueWrite a v).lat = s.lat := rfl
@[simp] theorem issueWrite_vlat (a v : Byte) : (s.issueWrite a v).vlat = s.vlat := rfl
@[simp] theorem issueWrite_einfo (a v : Byte) : (s.issueWrite a v).einfo = s.einfo := rfl
@[simp] theorem issueWrite_treq (a v : Byte) : (s.issueWrite a v).treq = some (.write s.cfg.devAddr a v) := rfl
@[simp] theorem issueWrite_rsp (a v : Byte) : (s.issueWrite a v).rsp = s.rsp := rfl
@[simp] theorem issueWrite_cfg (a v : Byte) : (s.issueWrite a v).cfg = s.cfg := rfl
@[simp] theorem issueWrite_cmdIn (a v : Byte) : (s.issueWrite a v).cmdIn = s.cmdIn := rfl
@[simp] theorem issueWrite_trspIn (a v : Byte) : (s.issueWrite a v).trspIn = s.trspIn := rfl
@[simp] theorem issueWrite_abandoned (a v : Byte) : (s.issueWrite a v).abandoned = s.abandoned := rfl
@[simp] theorem issueWrite_rspReady (a v : Byte) : (s.issueWrite a v).rspReady = s.rspReady := rfl
@[simp] theorem issueWrite_rstIn (a v : Byte) : (s.issueWrite a v).rstIn = s.rstIn := rfl
@[simp] theorem issueWrite_trace (a v : Byte) : (s.issueWrite a v).trace = s.trace ++ [.treq (.write s.cfg.devAddr a v)] := rfl
@[simp] theorem issueWrite_draws (a v : Byte) : (s.issueWrite a v).draws = s.draws := rfl
@[simp] theorem issueWrite_answers (a v : Byte) : (s.issueWrite a v).answers = s.answers := rfl

/-! ### `offer` -/

@[simp] theorem offer_phase (st : Status) (p : Phys) : (s.offer st p).phase = .resp := rfl
@[simp] theorem offer_cmd (st : Status) (p : Phys) : (s.offer st p).cmd = s.cmd := rfl
@[simp] theorem offer_lat (st : Status) (p : Phys) : (s.offer st p).lat = s.lat := rfl
@[simp] theorem offer_vlat (st : Status) (p : Phys) : (s.offer st p).vlat = s.vlat := rfl
@[simp] theorem offer_einfo (st : Status) (p : Phys) : (s.offer st p).einfo = s.einfo := rfl
@[simp] theorem offer_treq (st : Status) (p : Phys) : (s.offer st p).treq = s.treq := rfl
@[simp] theorem offer_rsp (st : Status) (p : Phys) : (s.offer st p).rsp = some (responseWord st p) := rfl
@[simp] theorem offer_cfg (st : Status) (p : Phys) : (s.offer st p).cfg = s.cfg := rfl
@[simp] theorem offer_cmdIn (st : Status) (p : Phys) : (s.offer st p).cmdIn = s.cmdIn := rfl
@[simp] theorem offer_trspIn (st : Status) (p : Phys) : (s.offer st p).trspIn = s.trspIn := rfl
@[simp] theorem offer_abandoned (st : Status) (p : Phys) : (s.offer st p).abandoned = s.abandoned := rfl
@[simp] theorem offer_rspReady (st : Status) (p : Phys) : (s.offer st p).rspReady = s.rspReady := rfl
@[simp] theorem offer_rstIn (st : Status) (p : Phys) : (s.offer st p).rstIn = s.rstIn := rfl
@[simp] theorem offer_trace (st : Status) (p : Phys) : (s.offer st p).trace = s.trace := rfl
@[simp] theorem offer_draws (st : Status) (p : Phys) : (s.offer st p).draws = s.draws := rfl
@[simp] theorem offer_answers (st : Status) (p : Phys) : (s.offer st p).answers = s.answers := rfl

/-! ### `respond` -/

@[simp] theorem respond_phase (p : Phys) : (s.respond p).phase = .resp := rfl
@[simp] theorem respond_cmd (p : Phys) : (s.respond p).cmd = s.cmd := rfl
@[simp] theorem respond_lat (p : Phys) : (s.respond p).lat = s.lat := rfl
@[simp] theorem respond_vlat (p : Phys) : (s.respond p).vlat = s.vlat := rfl
@[simp] theorem respond_einfo (p : Phys) : (s.respond p).einfo = s.einfo := rfl
@[simp] theorem respond_treq (p : Phys) : (s.respond p).treq = s.treq := rfl
@[simp] theorem respond_rsp (p : Phys) : (s.respond p).rsp = some (responseWord .ok p) := rfl
@[simp] theorem respond_cfg (p : Phys) : (s.respond p).cfg = s.cfg := rfl
@[simp] theorem respond_cmdIn (p : Phys) : (s.respond p).cmdIn = s.cmdIn := rfl
@[simp] theorem respond_trspIn (p : Phys) : (s.respond p).trspIn = s.trspIn := rfl
@[simp] theorem respond_abandoned (p : Phys) : (s.respond p).abandoned = s.abandoned := rfl
@[simp] theorem respond_rspReady (p : Phys) : (s.respond p).rspReady = s.rspReady := rfl
@[simp] theorem respond_rstIn (p : Phys) : (s.respond p).rstIn = s.rstIn := rfl
@[simp] theorem respond_trace (p : Phys) : (s.respond p).trace = s.trace := rfl
@[simp] theorem respond_draws (p : Phys) : (s.respond p).draws = s.draws := rfl
@[simp] theorem respond_answers (p : Phys) : (s.respond p).answers = s.answers := rfl

/-! ### `raise` -/

@[simp] theorem raise_phase (k : ErrorKind) : (s.raise k).phase = .resp := rfl
@[simp] theorem raise_cmd (k : ErrorKind) : (s.raise k).cmd = s.cmd := rfl
@[simp] theorem raise_lat (k : ErrorKind) : (s.raise k).lat = s.lat := rfl
@[simp] theorem raise_vlat (k : ErrorKind) : (s.raise k).vlat = s.vlat := rfl
@[simp] theorem raise_einfo (k : ErrorKind) : (s.raise k).einfo = s.einfo := rfl
@[simp] theorem raise_treq (k : ErrorKind) : (s.raise k).treq = s.treq := rfl
@[simp] theorem raise_rsp (k : ErrorKind) : (s.raise k).rsp = some (responseWord (.error k) (k.payload s.einfo s.vlat)) := rfl
@[simp] theorem raise_cfg (k : ErrorKind) : (s.raise k).cfg = s.cfg := rfl
@[simp] theorem raise_cmdIn (k : ErrorKind) : (s.raise k).cmdIn = s.cmdIn := rfl
@[simp] theorem raise_trspIn (k : ErrorKind) : (s.raise k).trspIn = s.trspIn := rfl
@[simp] theorem raise_abandoned (k : ErrorKind) : (s.raise k).abandoned = s.abandoned := rfl
@[simp] theorem raise_rspReady (k : ErrorKind) : (s.raise k).rspReady = s.rspReady := rfl
@[simp] theorem raise_rstIn (k : ErrorKind) : (s.raise k).rstIn = s.rstIn := rfl
@[simp] theorem raise_trace (k : ErrorKind) : (s.raise k).trace = s.trace := rfl
@[simp] theorem raise_draws (k : ErrorKind) : (s.raise k).draws = s.draws := rfl
@[simp] theorem raise_answers (k : ErrorKind) : (s.raise k).answers = s.answers := rfl

/-! ### `raiseTransport` -/

@[simp] theorem raiseTransport_phase (e : Byte) : (s.raiseTransport e).phase = .resp := rfl
@[simp] theorem raiseTransport_cmd (e : Byte) : (s.raiseTransport e).cmd = s.cmd := rfl
@[simp] theorem raiseTransport_lat (e : Byte) : (s.raiseTransport e).lat = s.lat := rfl
@[simp] theorem raiseTransport_vlat (e : Byte) : (s.raiseTransport e).vlat = s.vlat := rfl
@[simp] theorem raiseTransport_einfo (e : Byte) : (s.raiseTransport e).einfo = e := rfl
@[simp] theorem raiseTransport_treq (e : Byte) : (s.raiseTransport e).treq = s.treq := rfl
@[simp] theorem raiseTransport_rsp (e : Byte) : (s.raiseTransport e).rsp = some (responseWord (.error .transportError) (zext16 e)) := rfl
@[simp] theorem raiseTransport_cfg (e : Byte) : (s.raiseTransport e).cfg = s.cfg := rfl
@[simp] theorem raiseTransport_cmdIn (e : Byte) : (s.raiseTransport e).cmdIn = s.cmdIn := rfl
@[simp] theorem raiseTransport_trspIn (e : Byte) : (s.raiseTransport e).trspIn = s.trspIn := rfl
@[simp] theorem raiseTransport_abandoned (e : Byte) : (s.raiseTransport e).abandoned = s.abandoned := rfl
@[simp] theorem raiseTransport_rspReady (e : Byte) : (s.raiseTransport e).rspReady = s.rspReady := rfl
@[simp] theorem raiseTransport_rstIn (e : Byte) : (s.raiseTransport e).rstIn = s.rstIn := rfl
@[simp] theorem raiseTransport_trace (e : Byte) : (s.raiseTransport e).trace = s.trace := rfl
@[simp] theorem raiseTransport_draws (e : Byte) : (s.raiseTransport e).draws = s.draws := rfl
@[simp] theorem raiseTransport_answers (e : Byte) : (s.raiseTransport e).answers = s.answers := rfl

/-! ### `takeResponse` -/

@[simp] theorem takeResponse_phase : (s.takeResponse).phase = .idle := rfl
@[simp] theorem takeResponse_cmd : (s.takeResponse).cmd = s.cmd := rfl
@[simp] theorem takeResponse_lat : (s.takeResponse).lat = s.lat := rfl
@[simp] theorem takeResponse_vlat : (s.takeResponse).vlat = s.vlat := rfl
@[simp] theorem takeResponse_einfo : (s.takeResponse).einfo = s.einfo := rfl
@[simp] theorem takeResponse_treq : (s.takeResponse).treq = s.treq := rfl
@[simp] theorem takeResponse_rsp : (s.takeResponse).rsp = none := rfl
@[simp] theorem takeResponse_cfg : (s.takeResponse).cfg = s.cfg := rfl
@[simp] theorem takeResponse_cmdIn : (s.takeResponse).cmdIn = s.cmdIn := rfl
@[simp] theorem takeResponse_trspIn : (s.takeResponse).trspIn = s.trspIn := rfl
@[simp] theorem takeResponse_abandoned : (s.takeResponse).abandoned = s.abandoned := rfl
@[simp] theorem takeResponse_rspReady : (s.takeResponse).rspReady = s.rspReady := rfl
@[simp] theorem takeResponse_rstIn : (s.takeResponse).rstIn = s.rstIn := rfl
@[simp] theorem takeResponse_trace : (s.takeResponse).trace = s.trace ++ (s.rsp.map Event.rsp).toList := rfl
@[simp] theorem takeResponse_draws : (s.takeResponse).draws = s.draws := rfl
@[simp] theorem takeResponse_answers : (s.takeResponse).answers = s.answers := rfl

/-! ### `accept` -/

@[simp] theorem accept_phase (w : Word) (ws : List Word) : (s.accept w ws).phase = .exec := rfl
@[simp] theorem accept_cmd (w : Word) (ws : List Word) : (s.accept w ws).cmd = w := rfl
@[simp] theorem accept_lat (w : Word) (ws : List Word) : (s.accept w ws).lat = s.lat := rfl
@[simp] theorem accept_vlat (w : Word) (ws : List Word) : (s.accept w ws).vlat = s.vlat := rfl
@[simp] theorem accept_einfo (w : Word) (ws : List Word) : (s.accept w ws).einfo = s.einfo := rfl
@[simp] theorem accept_treq (w : Word) (ws : List Word) : (s.accept w ws).treq = s.treq := rfl
@[simp] theorem accept_rsp (w : Word) (ws : List Word) : (s.accept w ws).rsp = s.rsp := rfl
@[simp] theorem accept_cfg (w : Word) (ws : List Word) : (s.accept w ws).cfg = s.cfg := rfl
@[simp] theorem accept_cmdIn (w : Word) (ws : List Word) : (s.accept w ws).cmdIn = ws := rfl
@[simp] theorem accept_trspIn (w : Word) (ws : List Word) : (s.accept w ws).trspIn = s.trspIn := rfl
@[simp] theorem accept_abandoned (w : Word) (ws : List Word) : (s.accept w ws).abandoned = s.abandoned := rfl
@[simp] theorem accept_rspReady (w : Word) (ws : List Word) : (s.accept w ws).rspReady = s.rspReady := rfl
@[simp] theorem accept_rstIn (w : Word) (ws : List Word) : (s.accept w ws).rstIn = s.rstIn := rfl
@[simp] theorem accept_trace (w : Word) (ws : List Word) : (s.accept w ws).trace = s.trace ++ [.cmd w] := rfl
@[simp] theorem accept_draws (w : Word) (ws : List Word) : (s.accept w ws).draws = s.draws := rfl
@[simp] theorem accept_answers (w : Word) (ws : List Word) : (s.accept w ws).answers = s.answers := rfl

/-! ### `applyReset` -/

@[simp] theorem applyReset_phase : (s.applyReset).phase = .idle := rfl
@[simp] theorem applyReset_cmd : (s.applyReset).cmd = Config.freeWord s.draws := rfl
@[simp] theorem applyReset_lat : (s.applyReset).lat = Config.freeByte s.draws := rfl
@[simp] theorem applyReset_vlat : (s.applyReset).vlat = Config.freeByte (s.draws + 1) := rfl
@[simp] theorem applyReset_einfo : (s.applyReset).einfo = Config.freeByte (s.draws + 2) := rfl
@[simp] theorem applyReset_treq : (s.applyReset).treq = none := rfl
@[simp] theorem applyReset_rsp : (s.applyReset).rsp = none := rfl
@[simp] theorem applyReset_cfg : (s.applyReset).cfg = s.cfg := rfl
@[simp] theorem applyReset_cmdIn : (s.applyReset).cmdIn = s.cmdIn := rfl
@[simp] theorem applyReset_trspIn : (s.applyReset).trspIn = s.trspIn := rfl
@[simp] theorem applyReset_abandoned : (s.applyReset).abandoned = s.abandoned + s.treq.toList.length := rfl
@[simp] theorem applyReset_rspReady : (s.applyReset).rspReady = s.rspReady := rfl
@[simp] theorem applyReset_rstIn : (s.applyReset).rstIn = false := rfl
@[simp] theorem applyReset_trace : (s.applyReset).trace = s.trace ++ [.rst] := rfl
@[simp] theorem applyReset_draws : (s.applyReset).draws = s.draws + 3 := rfl

/-- After a reset the answer to the request it abandoned is no answer to a later request (R241). -/
theorem applyReset_answers : s.applyReset.answers = s.answers.drop s.treq.toList.length := by
  simp [State.answers, List.drop_drop]

end State
end Sys2Proof.Machine
end

