-- ==== Sys2Proof/Laws/Ops.lean ====
section
/-! SUPPORT. What each shared operation of Machine/Ops.lean does: one equation for each answer the transport can have
given, and one inversion lemma ("if it answers next t, then ..."). Later proofs cite these and unfold no operation. -/

namespace Sys2Proof.Machine

variable {s t : State} {a : TRsp} {rest : List TRsp} {k : State → Result} {e b : Byte}

/-- The state once the answer `a` to the outstanding request is taken, with `rest` left. -/
def State.answered (s : State) (a : TRsp) (rest : List TRsp) : State :=
  { s with treq := none, trspIn := rest, abandoned := 0, trace := s.trace ++ [.trsp a] }

@[simp] theorem State.answered_answers : (s.answered a rest).answers = rest := rfl
@[simp] theorem State.answered_trace : (s.answered a rest).trace = s.trace ++ [.trsp a] := rfl
@[simp] theorem State.answered_cfg : (s.answered a rest).cfg = s.cfg := rfl
@[simp] theorem State.answered_lat : (s.answered a rest).lat = s.lat := rfl
@[simp] theorem State.answered_phase : (s.answered a rest).phase = s.phase := rfl
@[simp] theorem State.answered_treq : (s.answered a rest).treq = none := rfl
@[simp] theorem State.answered_cmd : (s.answered a rest).cmd = s.cmd := rfl

theorem takeAnswer_nil (h : s.answers = []) : s.takeAnswer = none := by
  simp [State.takeAnswer, h]

theorem takeAnswer_cons (h : s.answers = a :: rest) : s.takeAnswer = some (a, s.answered a rest) := by
  simp [State.takeAnswer, h, State.answered]

theorem inRead_waits (h : s.answers = []) : inRead k s = .next s := by
  simp [inRead, takeAnswer_nil h]

theorem inRead_err (h : s.answers = .err e :: rest) :
    inRead k s = .next ((s.answered (.err e) rest).raiseTransport e) := by
  simp [inRead, takeAnswer_cons h]

theorem inRead_ok (h : s.answers = .ok b :: rest) :
    inRead k s = k { s.answered (.ok b) rest with lat := b } := by
  simp [inRead, takeAnswer_cons h]

theorem inWrite_waits (h : s.answers = []) : inWrite k s = .next s := by
  simp [inWrite, takeAnswer_nil h]

theorem inWrite_err (h : s.answers = .err e :: rest) :
    inWrite k s = .next ((s.answered (.err e) rest).raiseTransport e) := by
  simp [inWrite, takeAnswer_cons h]

theorem inWrite_ok (h : s.answers = .ok b :: rest) :
    inWrite k s = k (s.answered (.ok b) rest) := by
  simp [inWrite, takeAnswer_cons h]

theorem inVerify_waits {m : Byte} (h : s.answers = []) : inVerify m s = .next s := by
  simp [inVerify, takeAnswer_nil h]

theorem inVerify_err {m : Byte} (h : s.answers = .err e :: rest) :
    inVerify m s = .next ((s.answered (.err e) rest).raiseTransport e) := by
  simp [inVerify, takeAnswer_cons h]

theorem inVerify_ok {m : Byte} (h : s.answers = .ok b :: rest) :
    inVerify m s = .next (if fullySet m b then State.respond 0 { s.answered (.ok b) rest with vlat := b }
      else State.raise .verificationFailed { s.answered (.ok b) rest with vlat := b }) := by
  simp only [inVerify, takeAnswer_cons h]
  split <;> rfl

/-- The transport has not answered, has answered `err`, or has answered `ok`. -/
theorem answers_cases (s : State) :
    s.answers = [] ∨ (∃ e rest, s.answers = .err e :: rest) ∨ ∃ b rest, s.answers = .ok b :: rest := by
  cases s.answers with
  | nil => exact .inl rfl
  | cons a rest =>
    cases a with
    | ok b => exact .inr (.inr ⟨b, rest, rfl⟩)
    | err e => exact .inr (.inl ⟨e, rest, rfl⟩)

/-- Everything `inRead` can do. -/
theorem inRead_next (h : inRead k s = .next t) :
    (s.answers = [] ∧ t = s) ∨
    (∃ e rest, s.answers = .err e :: rest ∧ t = (s.answered (.err e) rest).raiseTransport e) ∨
    (∃ b rest, s.answers = .ok b :: rest ∧ k { s.answered (.ok b) rest with lat := b } = .next t) := by
  obtain ha | ⟨e, rest, ha⟩ | ⟨b, rest, ha⟩ := answers_cases s
  · rw [inRead_waits ha] at h; cases h; exact .inl ⟨ha, rfl⟩
  · rw [inRead_err ha] at h; cases h; exact .inr (.inl ⟨e, rest, ha, rfl⟩)
  · rw [inRead_ok ha] at h; exact .inr (.inr ⟨b, rest, ha, h⟩)

/-- Everything `inWrite` can do. -/
theorem inWrite_next (h : inWrite k s = .next t) :
    (s.answers = [] ∧ t = s) ∨
    (∃ e rest, s.answers = .err e :: rest ∧ t = (s.answered (.err e) rest).raiseTransport e) ∨
    (∃ b rest, s.answers = .ok b :: rest ∧ k (s.answered (.ok b) rest) = .next t) := by
  obtain ha | ⟨e, rest, ha⟩ | ⟨b, rest, ha⟩ := answers_cases s
  · rw [inWrite_waits ha] at h; cases h; exact .inl ⟨ha, rfl⟩
  · rw [inWrite_err ha] at h; cases h; exact .inr (.inl ⟨e, rest, ha, rfl⟩)
  · rw [inWrite_ok ha] at h; exact .inr (.inr ⟨b, rest, ha, h⟩)

/-- Everything `inVerify` can do. -/
theorem inVerify_next {m : Byte} (h : inVerify m s = .next t) :
    (s.answers = [] ∧ t = s) ∨
    (∃ e rest, s.answers = .err e :: rest ∧ t = (s.answered (.err e) rest).raiseTransport e) ∨
    (∃ b rest, s.answers = .ok b :: rest ∧
      t = if fullySet m b then State.respond 0 { s.answered (.ok b) rest with vlat := b }
        else State.raise .verificationFailed { s.answered (.ok b) rest with vlat := b }) := by
  obtain ha | ⟨e, rest, ha⟩ | ⟨b, rest, ha⟩ := answers_cases s
  · rw [inVerify_waits ha] at h; cases h; exact .inl ⟨ha, rfl⟩
  · rw [inVerify_err ha] at h; cases h; exact .inr (.inl ⟨e, rest, ha, rfl⟩)
  · rw [inVerify_ok ha] at h; cases h; exact .inr (.inr ⟨b, rest, ha, rfl⟩)

/-- Everything `acceptAlone` can do. -/
theorem acceptAlone_cases (s : State) :
    s.acceptAlone = s ∨
      (s.phase = .idle ∧ s.rstIn = false ∧ ∃ w ws, s.cmdIn = w :: ws ∧ s.acceptAlone = s.accept w ws) := by
  cases hp : s.phase with
  | idle =>
    cases hc : s.cmdIn with
    | nil => exact .inl (by simp [State.acceptAlone, hp, hc])
    | cons w ws =>
      cases hr : s.rstIn with
      | true => exact .inl (by simp [State.acceptAlone, hp, hc, hr])
      | false => exact .inr ⟨rfl, rfl, w, ws, rfl, by simp [State.acceptAlone, hp, hc, hr]⟩
  | _ => exact .inl (by simp [State.acceptAlone, hp])

/-! ### The commands, phase by phase -/

theorem pureCommand_exec {p : Phys} (h : s.phase = .exec) : pureCommand p s = .next (s.respond p) := by
  simp [pureCommand, h]

theorem rejectCommand_exec {x : ErrorKind} (h : s.phase = .exec) : rejectCommand x s = .next (s.raise x) := by
  simp [rejectCommand, h]

theorem readCommand_exec {r : Byte} {f : Byte → Phys} (h : s.phase = .exec) :
    readCommand r f s = inRead (fun t => .next (t.respond (f t.lat))) (s.issueRead .rd r) := by
  simp [readCommand, h]

theorem readCommand_rd {r : Byte} {f : Byte → Phys} (h : s.phase = .rd) :
    readCommand r f s = inRead (fun t => .next (t.respond (f t.lat))) s := by
  simp [readCommand, h]

theorem writeCommand_exec {r v : Byte} (h : s.phase = .exec) :
    writeCommand r v s = inWrite done (s.issueWrite r v) := by
  simp [writeCommand, h]

theorem writeCommand_wr {r v : Byte} (h : s.phase = .wr) : writeCommand r v s = inWrite done s := by
  simp [writeCommand, h]

theorem modifyCommand_exec {r : Byte} {f : Byte → Byte} (h : s.phase = .exec) :
    modifyCommand r f s = readThenWrite r f done (s.issueRead .rd r) := by
  simp [modifyCommand, h]

theorem modifyCommand_rd {r : Byte} {f : Byte → Byte} (h : s.phase = .rd) :
    modifyCommand r f s = readThenWrite r f done s := by
  simp [modifyCommand, h]

theorem modifyCommand_wr {r : Byte} {f : Byte → Byte} (h : s.phase = .wr) :
    modifyCommand r f s = inWrite done s := by
  simp [modifyCommand, h]

theorem verifyCommand_exec {r m : Byte} (h : s.phase = .exec) :
    verifyCommand r m s = readThenWrite r (orMask m) (readBack r m) (s.issueRead .rd r) := by
  simp [verifyCommand, h]

theorem verifyCommand_rd {r m : Byte} (h : s.phase = .rd) :
    verifyCommand r m s = readThenWrite r (orMask m) (readBack r m) s := by
  simp [verifyCommand, h]

theorem verifyCommand_wr {r m : Byte} (h : s.phase = .wr) :
    verifyCommand r m s = inWrite (readBack r m) s := by
  simp [verifyCommand, h]

theorem verifyCommand_vrd {r m : Byte} (h : s.phase = .vrd) : verifyCommand r m s = inVerify m s := by
  simp [verifyCommand, h]

end Sys2Proof.Machine
end

