-- ==== Sys2Proof/Laws/Answers.lean ====
section
/-! SUPPORT. The answers a state has once the transport has given more (`answersAfter`), after each operation that
touches the transport's answers. -/

namespace Sys2Proof.Machine
namespace State

variable (s : State) (more : List TRsp)

theorem answersAfter_eq_drop : s.answersAfter more = (s.trspIn ++ more).drop s.abandoned := rfl

@[simp] theorem answersAfter_nil : s.answersAfter [] = s.answers := by simp [answersAfter_eq_drop, answers]

/-- Answers follow those at hand, if one is at hand or no abandoned request waits for its own. -/
theorem answersAfter_of_le (h : s.abandoned ≤ s.trspIn.length) : s.answersAfter more = s.answers ++ more := by
  rw [answersAfter_eq_drop, List.drop_append_of_le_length h, answers]

theorem abandoned_le_of_answers {s : State} (h : s.answers ≠ []) : s.abandoned ≤ s.trspIn.length := by
  rcases Nat.le_total s.abandoned s.trspIn.length with hl | hl
  · exact hl
  · exact absurd (List.drop_eq_nil_of_le hl) h

@[simp] theorem answered_answersAfter (a : TRsp) (rest : List TRsp) :
    (s.answered a rest).answersAfter more = rest ++ more := rfl

@[simp] theorem issue_answersAfter (q : TReq) (ph : Phase) : (s.issue q ph).answersAfter more = s.answersAfter more := rfl

@[simp] theorem issueRead_answersAfter (ph : Phase) (a : Byte) :
    (s.issueRead ph a).answersAfter more = s.answersAfter more := rfl

@[simp] theorem issueWrite_answersAfter (a v : Byte) : (s.issueWrite a v).answersAfter more = s.answersAfter more := rfl

@[simp] theorem offer_answersAfter (st : Status) (p : Phys) :
    (s.offer st p).answersAfter more = s.answersAfter more := rfl

@[simp] theorem accept_answersAfter (w : Word) (ws : List Word) :
    (s.accept w ws).answersAfter more = s.answersAfter more := rfl

@[simp] theorem takeResponse_answersAfter : s.takeResponse.answersAfter more = s.answersAfter more := rfl

/-- One more answer is ignored for the request a reset abandons (R241). -/
theorem applyReset_answersAfter :
    s.applyReset.answersAfter more = (s.answersAfter more).drop s.treq.toList.length := by
  simp [answersAfter_eq_drop, List.drop_drop]

end State
end Sys2Proof.Machine
end

