-- ==== Sys2Proof/Laws/Decode.lean ====
section
/-! SUPPORT. The fields of a word and the word of the fields; a row of the opcode table read field by field; the
selectors. A proof about a word goes to its fields with these and never looks at single bits. -/

namespace Sys2Proof

/-- R80: "its numeric value is `op*2^27 + sel*2^24 + a*2^16 + b*2^8 + c`". -/
theorem RawCmd.toNat_toWord (r : RawCmd) :
    r.toWord.toNat =
      r.op.toNat * 2 ^ 27 + r.sel.toNat * 2 ^ 24 + r.a.toNat * 2 ^ 16 + r.b.toNat * 2 ^ 8 + r.c.toNat := by
  have hs := r.sel.isLt; have ha := r.a.isLt; have hb := r.b.isLt; have hc := r.c.isLt
  simp only [RawCmd.toWord, BitVec.toNat_append]
  rw [← Nat.shiftLeft_add_eq_or_of_lt hc, ← Nat.shiftLeft_add_eq_or_of_lt hb, ← Nat.shiftLeft_add_eq_or_of_lt ha,
    ← Nat.shiftLeft_add_eq_or_of_lt hs]
  simp only [Nat.shiftLeft_eq]
  omega

@[simp] theorem RawCmd.ofWord_toWord (r : RawCmd) : RawCmd.ofWord r.toWord = r := by
  have h := r.toNat_toWord
  have ho := r.op.isLt; have hs := r.sel.isLt; have ha := r.a.isLt; have hb := r.b.isLt; have hc := r.c.isLt
  cases r with | mk op sel a b c
  simp only [RawCmd.ofWord, RawCmd.mk.injEq] at *
  refine ⟨?_, ?_, ?_, ?_, ?_⟩ <;> apply BitVec.eq_of_toNat_eq <;>
    simp only [BitVec.extractLsb'_toNat, Nat.shiftRight_eq_div_pow, h] <;> omega

@[simp] theorem RawCmd.toWord_ofWord (w : Word) : (RawCmd.ofWord w).toWord = w := by
  apply BitVec.eq_of_toNat_eq
  have hw := w.isLt
  simp only [RawCmd.toNat_toWord, RawCmd.ofWord, BitVec.extractLsb'_toNat, Nat.shiftRight_eq_div_pow]
  omega

theorem RawCmd.toWord_inj {r q : RawCmd} : r.toWord = q.toWord ↔ r = q :=
  ⟨fun h => by rw [← RawCmd.ofWord_toWord r, h, RawCmd.ofWord_toWord], fun h => by rw [h]⟩

theorem RawCmd.toWord_and (r m : RawCmd) :
    r.toWord &&& m.toWord = (RawCmd.mk (r.op &&& m.op) (r.sel &&& m.sel) (r.a &&& m.a) (r.b &&& m.b) (r.c &&& m.c)).toWord := by
  simp only [RawCmd.toWord]
  rw [← BitVec.and_append, ← BitVec.and_append, ← BitVec.and_append, ← BitVec.and_append]

/-- A row of the opcode table, read field by field (R80, R84). -/
theorem OpcodeRow.accepts_toWord (row : OpcodeRow) (r : RawCmd) :
    row.accepts r.toWord = true ↔
      r.op &&& (RawCmd.ofWord row.mask).op = (RawCmd.ofWord row.pattern).op ∧
      r.sel &&& (RawCmd.ofWord row.mask).sel = (RawCmd.ofWord row.pattern).sel ∧
      r.a &&& (RawCmd.ofWord row.mask).a = (RawCmd.ofWord row.pattern).a ∧
      r.b &&& (RawCmd.ofWord row.mask).b = (RawCmd.ofWord row.pattern).b ∧
      r.c &&& (RawCmd.ofWord row.mask).c = (RawCmd.ofWord row.pattern).c := by
  have h : row.accepts r.toWord = true ↔
      r.toWord &&& (RawCmd.ofWord row.mask).toWord = (RawCmd.ofWord row.pattern).toWord := by
    simp [OpcodeRow.accepts]
  rw [h, RawCmd.toWord_and, RawCmd.toWord_inj]
  simp only [RawCmd.ext_iff]

/-- Decoding the word of five fields: the row it meets, then the operands from the fields themselves. -/
theorem decode_toWord (r : RawCmd) :
    decode r.toWord = (opcodeRows.find? (·.accepts r.toWord)).bind (·.build r) := by
  simp [decode]

@[simp] theorem phys_of_bytes (p : Phys) : physHigh p ++ physLow p = p := by
  apply BitVec.eq_of_toNat_eq
  have hp := p.isLt
  rw [BitVec.toNat_append, ← Nat.shiftLeft_add_eq_or_of_lt (physLow p).isLt]
  simp only [physHigh, physLow, BitVec.extractLsb'_toNat, Nat.shiftRight_eq_div_pow, Nat.shiftLeft_eq]
  omega

@[simp] theorem ScaledField.ofSel?_sel (f : ScaledField) : ScaledField.ofSel? f.sel = some f := by cases f <;> rfl

@[simp] theorem FlagSet.ofSel?_sel (k : FlagSet) : FlagSet.ofSel? k.sel = some k := by cases k <;> rfl

@[simp] theorem TableId.ofSel?_sel (t : TableId) : TableId.ofSel? t.sel = some t := by cases t <;> rfl

@[simp] theorem physHigh_append (b c : Byte) : physHigh (b ++ c) = b := by
  apply BitVec.eq_of_toNat_eq
  have hb := b.isLt; have hc := c.isLt
  simp only [physHigh, BitVec.extractLsb'_toNat, Nat.shiftRight_eq_div_pow]
  rw [BitVec.toNat_append, ← Nat.shiftLeft_add_eq_or_of_lt hc]
  simp only [Nat.shiftLeft_eq]
  omega

@[simp] theorem physLow_append (b c : Byte) : physLow (b ++ c) = c := by
  apply BitVec.eq_of_toNat_eq
  have hb := b.isLt; have hc := c.isLt
  simp only [physLow, BitVec.extractLsb'_toNat, Nat.shiftRight_eq_div_pow]
  rw [BitVec.toNat_append, ← Nat.shiftLeft_add_eq_or_of_lt hc]
  simp only [Nat.shiftLeft_eq]
  omega

/-! The masks of the opcode table, field by field: a full mask compares the field, and the three partial selector masks
admit the selectors of R83. -/

theorem and_op_mask (x : BitVec 5) : x &&& 31#5 = x := BitVec.and_allOnes (x := x)

theorem and_sel_mask (x : BitVec 3) : x &&& 7#3 = x := BitVec.and_allOnes (x := x)

theorem and_byte_mask (x : Byte) : x &&& 255#8 = x := BitVec.and_allOnes (x := x)

theorem sel_below_four (x : BitVec 3) : x &&& 4#3 = 0#3 ↔ x = 0 ∨ x = 1 ∨ x = 2 ∨ x = 3 := by
  revert x; decide

theorem sel_below_two (x : BitVec 3) : x &&& 6#3 = 0#3 ↔ x = 0 ∨ x = 1 := by
  revert x; decide

theorem sel_four_or_five (x : BitVec 3) : x &&& 6#3 = 4#3 ↔ x = 4 ∨ x = 5 := by
  revert x; decide

/-- A row builds a command from the fields of every word it accepts, and the command's fields are those. -/
theorem OpcodeRow.build_of_accepts {row : OpcodeRow} (hr : row ∈ opcodeRows) {r : RawCmd}
    (h : row.accepts r.toWord = true) : ∃ i, row.build r = some i ∧ i.fields = r := by
  rcases r with ⟨op, sel, a, b, c⟩
  simp only [opcodeRows, primitiveRows, writingCompositeRows, readingCompositeRows, List.mem_append, List.mem_cons,
    List.not_mem_nil, or_false, or_assoc] at hr
  rcases hr with rfl | rfl | rfl | rfl | rfl | rfl | rfl | rfl | rfl | rfl | rfl | rfl | rfl | rfl | rfl | rfl | rfl |
      rfl | rfl | rfl | rfl | rfl | rfl | rfl <;>
    rw [OpcodeRow.accepts_toWord] at h <;>
    simp [RawCmd.ofWord, and_op_mask, and_sel_mask, and_byte_mask, sel_below_four, sel_below_two, sel_four_or_five,
      -not_and, -not_or] at h <;>
    obtain ⟨rfl, h1, h2, h3, h4⟩ := h <;>
    (try subst h2) <;> (try subst h3) <;> (try subst h4) <;>
    (try rcases h1 with rfl | rfl | rfl | rfl) <;>
    simp [ScaledField.ofSel?, FlagSet.ofSel?, TableId.ofSel?, Instr.fields, Instr.op, ScaledField.sel, FlagSet.sel,
      TableId.sel, RawCmd.phys]

end Sys2Proof
end

