-- ==== Sys2Proof/Laws/Operands.lean ====
section
/-! SUPPORT. What the computations of Machine/Operands.lean give: the scaler's arithmetic over the four descriptors, the
byte combinations, the hit vector bit by bit, and the first match of a state table. -/

namespace Sys2Proof.Machine

/-! ### The scaler -/

theorem fdiv_sub_nat (a b c : Nat) (h : b ≤ a) : Int.fdiv ((a : Int) - b) c = (((a - b) / c : Nat) : Int) := by
  rw [← Int.ofNat_sub h]
  exact (Int.ofNat_fdiv _ _).symm

theorem sat8_of_le (q : Nat) (h : q ≤ 255) : sat8 (q : Int) = BitVec.ofNat 8 q := by
  simp only [sat8]
  rw [if_neg (by omega), if_neg (by omega)]
  simp

/-- A well-formed descriptor's bounds, in the natural numbers (R32). -/
theorem fieldDesc_bounds {d : FieldDesc} (h : d.wellFormed = true) :
    1 ≤ d.lsb ∧ d.off ≤ d.min ∧ d.min ≤ d.max ∧ (d.max - d.off) / d.lsb ≤ 255 ∧ 255 * d.lsb + d.off ≤ 65535 := by
  simp only [FieldDesc.wellFormed, decide_eq_true_eq] at h
  obtain ⟨h1, h2, h3, -, h5, h6⟩ := h
  rw [fdiv_sub_nat _ _ _ (by omega)] at h5
  exact ⟨h1, h2, h3, by omega, h6⟩

theorem fieldDesc_wellFormed (g : Config) (f : ScaledField) : (fieldDesc g f).wellFormed = true := by
  cases f <;> simp [fieldDesc, FieldDesc.wellFormed]

/-- In range, the quotient is a byte and `scale` is that byte. -/
theorem scale_in_range {d : FieldDesc} {p : Phys} (hw : d.wellFormed = true) (h : d.min ≤ p.toNat ∧ p.toNat ≤ d.max) :
    (p.toNat - d.off) / d.lsb ≤ 255 ∧ scale d p = BitVec.ofNat 8 ((p.toNat - d.off) / d.lsb) := by
  obtain ⟨-, h2, -, h4, -⟩ := fieldDesc_bounds hw
  have h5 : (p.toNat - d.off) / d.lsb ≤ (d.max - d.off) / d.lsb := Nat.div_le_div_right (by omega)
  refine ⟨by omega, ?_⟩
  rw [scale, fdiv_sub_nat _ _ _ (by omega), sat8_of_le _ (by omega)]

theorem inRange_iff (d : FieldDesc) (p : Phys) : inRange d p = true ↔ d.min ≤ p.toNat ∧ p.toNat ≤ d.max := by
  simp [inRange]

theorem encodeScaled_in_range {g : Config} {f : ScaledField} {p : Phys}
    (h : (fieldDesc g f).min ≤ p.toNat ∧ p.toNat ≤ (fieldDesc g f).max) :
    encodeScaled (fieldDesc g f) p =
      some (BitVec.ofNat 8 ((p.toNat - (fieldDesc g f).off) / (fieldDesc g f).lsb)) := by
  rw [encodeScaled, if_pos ((inRange_iff _ _).2 h), (scale_in_range (fieldDesc_wellFormed g f) h).2]

theorem encodeScaled_out_of_range {d : FieldDesc} {p : Phys} (h : inRange d p = false) : encodeScaled d p = none := by
  simp [encodeScaled, h]

theorem encodeScaled_eq_none_iff (d : FieldDesc) (p : Phys) : encodeScaled d p = none ↔ inRange d p = false := by
  simp [encodeScaled]

/-- DEC's result loses nothing to the 16-bit width. -/
theorem decodeScaled_toNat (g : Config) (f : ScaledField) (r : Byte) :
    (decodeScaled (fieldDesc g f) r).toNat = r.toNat * (fieldDesc g f).lsb + (fieldDesc g f).off := by
  have := r.isLt
  cases f <;> simp [decodeScaled, fieldDesc] <;> omega

/-! ### Byte combinations -/

theorem orMask_bits (m r : Byte) : orMask m r &&& m = m ∧ orMask m r &&& ~~~m = r &&& ~~~m := by
  constructor <;> ext i hi <;> simp only [orMask, BitVec.getElem_and, BitVec.getElem_or, BitVec.getElem_not] <;>
    cases r[i] <;> cases m[i] <;> rfl

theorem clearMask_bits (m r : Byte) : clearMask m r &&& m = 0 ∧ clearMask m r &&& ~~~m = r &&& ~~~m := by
  constructor <;> ext i hi <;>
    simp only [clearMask, BitVec.getElem_and, BitVec.getElem_not, BitVec.getElem_zero, BitVec.ofNat_eq_ofNat] <;>
    cases r[i] <;> cases m[i] <;> rfl

theorem replaceField_bits {m v : Byte} (r : Byte) (h : confined v m = true) :
    replaceField m v r &&& m = v ∧ replaceField m v r &&& ~~~m = r &&& ~~~m := by
  have hb : ∀ i (hi : i < 8), (v[i] && !m[i]) = false := by
    intro i hi
    have := congrArg (fun x : Byte => x[i]) (beq_iff_eq.mp h)
    simpa using this
  constructor <;> ext i hi <;> have := hb i hi <;>
    simp only [replaceField, BitVec.getElem_and, BitVec.getElem_or, BitVec.getElem_not] <;>
    revert this <;> cases r[i] <;> cases m[i] <;> cases v[i] <;> simp

theorem replaceField_zero (m : Byte) : replaceField m 0 = clearMask m := by
  funext r
  simp [replaceField, clearMask]

theorem confined_zero (m : Byte) : confined 0 m = true := by simp [confined]

/-! ### The extractor -/

/-- Bit i of the hit vector (R160). -/
theorem hitVector_bit (ds : List FlagDesc) (r : Byte) (i : Nat) (hi : i < 16) :
    (hitVector ds r).getLsbD i = true ↔ ∃ d, ds[i]? = some d ∧ r &&& d.mask = d.mask := by
  induction ds generalizing i with
  | nil => simp [hitVector]
  | cons d ds ih =>
    cases i with
    | zero => simp [hitVector, fullySet]; split <;> simp_all
    | succ i =>
      have h1 : (if fullySet d.mask r = true then (1 : Phys) else 0).getLsbD (i + 1) = false := by
        split <;> simp
      simp only [hitVector, BitVec.getLsbD_or, h1, Bool.or_false, List.getElem?_cons_succ, ← ih i (by omega)]
      rw [BitVec.getLsbD_shiftLeft]
      simp [hi]

/-- The later descriptors' vector, one place lower. -/
theorem hitVector_cons_shift (d : FlagDesc) (ds : List FlagDesc) (r : Byte) (h : ds.length ≤ 15) :
    hitVector (d :: ds) r >>> 1 = hitVector ds r := by
  apply BitVec.eq_of_getLsbD_eq
  intro i hi
  rw [BitVec.getLsbD_ushiftRight, Bool.eq_iff_iff, hitVector_bit _ _ _ hi]
  by_cases h15 : i = 15
  · subst h15
    have : ds[15]? = none := List.getElem?_eq_none h
    simp [this]
  · rw [hitVector_bit _ _ _ (by omega), Nat.add_comm]
    simp

theorem firstMatch_eq_zero_iff (es : List StateEntry) (x : Byte) : firstMatch es x = 0 ↔ ∀ e ∈ es, x ≠ e.pat := by
  induction es with
  | nil => simp [firstMatch]
  | cons e es ih =>
    simp only [firstMatch]
    split
    · simp_all
    · split <;> simp_all

theorem firstMatch_le (es : List StateEntry) (x : Byte) : firstMatch es x ≤ es.length := by
  induction es with
  | nil => simp [firstMatch]
  | cons e es ih =>
    simp only [firstMatch, List.length_cons]
    split
    · omega
    · split <;> omega

/-- The code j + 1 is the first entry's that matches (R165). -/
theorem firstMatch_eq_succ_iff (es : List StateEntry) (x : Byte) (j : Nat) :
    firstMatch es x = j + 1 ↔
      (∃ e, es[j]? = some e ∧ x = e.pat) ∧ ∀ j' < j, ∀ e, es[j']? = some e → x ≠ e.pat := by
  induction es generalizing j with
  | nil => simp [firstMatch]
  | cons e es ih =>
    simp only [firstMatch]
    split
    · rename_i h
      cases j with
      | zero => simp [h]
      | succ j =>
        refine iff_of_false (by omega) ?_
        rintro ⟨-, hc⟩
        exact hc 0 (by omega) e (by simp) h
    · rename_i h
      cases j with
      | zero => simp [h]; split <;> omega
      | succ j =>
        refine Iff.trans (b := firstMatch es x = j + 1) (by cases firstMatch es x <;> simp) ((ih j).trans ?_)
        simp only [List.getElem?_cons_succ]
        constructor
        · rintro ⟨h1, h2⟩
          refine ⟨h1, fun j' hj e' he => ?_⟩
          cases j' with
          | zero => simp at he; subst he; exact h
          | succ j' => exact h2 j' (by omega) e' (by simpa using he)
        · rintro ⟨h1, h2⟩
          exact ⟨h1, fun j' hj e' he => h2 (j' + 1) (by omega) e' (by simpa using he)⟩

/-! ### Well-formed configurations -/

theorem flagSetWellFormed_of_config {g : Config} (h : g.wellFormed = true) (k : FlagSet) :
    flagSetWellFormed (descs g k) = true := by
  simp only [Config.wellFormed, Config.flagSetsWellFormed, Bool.and_eq_true] at h
  cases k <;> simp only [descs] <;> tauto

theorem stateTable_length_le {g : Config} (h : g.wellFormed = true) (t : TableId) :
    (stateTable g t).ent.length ≤ 15 := by
  cases t
  · simp [stateTable]
  · simp only [Config.wellFormed, Config.controlWellFormed, StateTable.wellFormed, Bool.and_eq_true, nentMax,
      decide_eq_true_eq] at h
    exact of_decide_eq_true h.2.2.1.1

theorem watchdogOff_confined {g : Config} (h : g.wellFormed = true) : confined g.wdOffCode g.wdMask = true := by
  simp only [Config.wellFormed, Config.controlWellFormed, Bool.and_eq_true] at h
  exact h.2.1.1.1.2

end Sys2Proof.Machine
end

