-- ==== Sys2Proof/Laws/PerInstr.lean ====
section
/-! SUPPORT. The per-instruction family `EncodesWellFormed`: the fields the encoder gives a command are well formed, for
every operand (`spec/30_encoding.md` R80, R81, R83, R85, R92). One lemma per constructor of Instr. -/

namespace Sys2Proof.Laws.EncodesWellFormed

/-- The command's five fields make a legal word: none of R92's three reasons holds. -/
def Statement (i : Instr) : Prop := i.fields.wellFormed = true

/-- Every command's fields are well formed. -/
theorem all (i : Instr) : Statement i := by
  cases i with
  | enc f p | dec f r =>
    cases f <;> simp [Statement, Instr.fields, Instr.op, RawCmd.wellFormed, RawCmd.opAssigned, RawCmd.selInRange,
      RawCmd.unusedZero, ScaledField.sel]
  | dfl k r =>
    cases k <;> simp [Statement, Instr.fields, Instr.op, RawCmd.wellFormed, RawCmd.opAssigned, RawCmd.selInRange,
      RawCmd.unusedZero, FlagSet.sel]
  | dms t r =>
    cases t <;> simp [Statement, Instr.fields, Instr.op, RawCmd.wellFormed, RawCmd.opAssigned, RawCmd.selInRange,
      RawCmd.unusedZero, TableId.sel]
  | _ =>
    simp [Statement, Instr.fields, Instr.op, RawCmd.wellFormed, RawCmd.opAssigned, RawCmd.selInRange, RawCmd.unusedZero]

theorem enc (f : ScaledField) (p : Phys) : Statement (.enc f p) := all _

theorem dec (f : ScaledField) (r : Byte) : Statement (.dec f r) := all _

theorem rdb (a : Byte) : Statement (.rdb a) := all _

theorem wrb (a v : Byte) : Statement (.wrb a v) := all _

theorem rmo (a m : Byte) : Statement (.rmo a m) := all _

theorem rmc (a m : Byte) : Statement (.rmc a m) := all _

theorem wbf (a m v : Byte) : Statement (.wbf a m v) := all _

theorem rmov (a m : Byte) : Statement (.rmov a m) := all _

theorem dfl (k : FlagSet) (r : Byte) : Statement (.dfl k r) := all _

theorem dms (t : TableId) (r : Byte) : Statement (.dms t r) := all _

theorem setVbat (p : Phys) : Statement (.setVbat p) := all _

theorem setIchg (p : Phys) : Statement (.setIchg p) := all _

theorem setVindpm (p : Phys) : Statement (.setVindpm p) := all _

theorem setIindpm (p : Phys) : Statement (.setIindpm p) := all _

theorem chgEn : Statement .chgEn := all _

theorem chgDis : Statement .chgDis := all _

theorem wdDis : Statement .wdDis := all _

theorem regRst : Statement .regRst := all _

theorem getChgStat : Statement .getChgStat := all _

theorem getIntStat : Statement .getIntStat := all _

theorem getFltStat : Statement .getFltStat := all _

theorem getIntFlag : Statement .getIntFlag := all _

theorem getFltFlag : Statement .getFltFlag := all _

end Sys2Proof.Laws.EncodesWellFormed
end

