-- ==== Sys2Proof/Laws/Shape.lean ====
section
/-! SUPPORT. The twenty-three commands are six shapes over the shared operations. `exec_eq_run` says which command is
which shape, and each table of Safety.lean is given for a shape, so that a claim about every command is proved for six
shapes. -/

namespace Sys2Proof.Machine

/-- What a command does, with its constants filled in from the configuration. -/
inductive Shape where
  | pure (p : Phys)
  | reject (x : ErrorKind)
  | read (a : Byte) (f : Byte → Phys)
  | write (a v : Byte)
  | modify (a : Byte) (f : Byte → Byte)
  | verify (a m : Byte)

/-- A shape's meaning. -/
def Shape.run : Shape → State → Result
  | .pure p     => pureCommand p
  | .reject x   => rejectCommand x
  | .read a f   => readCommand a f
  | .write a v  => writeCommand a v
  | .modify a f => modifyCommand a f
  | .verify a m => verifyCommand a m

/-- The shape of a SET command. -/
def setShape (g : Config) (f : ScaledField) (p : Phys) : Shape :=
  match encodeScaled (fieldDesc g f) p with
  | none     => .reject .outOfRange
  | some raw => .write (faddr g f) raw

/-- The shape of a command under a configuration. -/
def shapeOf (g : Config) : Instr → Shape
  | .enc f p     =>
    match encodeScaled (fieldDesc g f) p with
    | none     => .reject .outOfRange
    | some raw => .pure (zext16 raw)
  | .dec f raw   => .pure (decodeScaled (fieldDesc g f) raw)
  | .rdb a       => .read a zext16
  | .wrb a v     => .write a v
  | .rmo a m     => .modify a (orMask m)
  | .rmc a m     => .modify a (clearMask m)
  | .wbf a m v   => if confined v m then .modify a (replaceField m v) else .reject .invalidFieldValue
  | .rmov a m    => .verify a m
  | .dfl k raw   => .pure (hitVector (descs g k) raw)
  | .dms t raw   => .pure (stateCode (stateTable g t) raw)
  | .setVbat p   => setShape g .vbat p
  | .setIchg p   => setShape g .ichg p
  | .setVindpm p => setShape g .vindpm p
  | .setIindpm p => setShape g .iindpm p
  | .chgEn       => .verify g.chgAddr g.chgEnMask
  | .chgDis      => .modify g.chgAddr (clearMask g.chgEnMask)
  | .wdDis       => .modify g.wdAddr (replaceField g.wdMask g.wdOffCode)
  | .regRst      => .modify g.rstAddr (orMask g.rstMask)
  | .getChgStat  => .read g.intStatAddr (stateCode (stateTable g .chgStat))
  | .getIntStat  => .read g.intStatAddr (hitVector (descs g .intStat))
  | .getFltStat  => .read g.fltStatAddr (hitVector (descs g .fltStat))
  | .getIntFlag  => .read g.intFlagAddr (hitVector (descs g .intFlag))
  | .getFltFlag  => .read g.fltFlagAddr (hitVector (descs g .fltFlag))

theorem setLimit_eq_run (f : ScaledField) (p : Phys) (s : State) :
    setLimit f p s = (setShape s.cfg f p).run s := by
  simp only [setLimit, setShape]
  cases encodeScaled (fieldDesc s.cfg f) p <;> rfl

/-- Every command is its shape. -/
theorem exec_eq_run (i : Instr) (s : State) : exec i s = (shapeOf s.cfg i).run s := by
  cases i with
  | enc f p =>
    simp only [exec, execEnc, shapeOf]
    cases encodeScaled (fieldDesc s.cfg f) p <;> rfl
  | wbf a m v =>
    simp only [exec, execWbf, shapeOf]
    cases confined v m <;> rfl
  | setVbat p => exact setLimit_eq_run _ _ _
  | setIchg p => exact setLimit_eq_run _ _ _
  | setVindpm p => exact setLimit_eq_run _ _ _
  | setIindpm p => exact setLimit_eq_run _ _ _
  | _ => rfl

/-- The request a shape has outstanding in a phase. -/
def Shape.request (sh : Shape) (g : Config) (lat : Byte) (ph : Phase) : Option TReq :=
  match sh with
  | .pure _     => none
  | .reject _   => none
  | .read a _   => readRequest g a ph
  | .write a v  => writeRequest g a v ph
  | .modify a f => rmwRequest g a (f lat) ph
  | .verify a m => verifyRequest g a (orMask m lat) ph

theorem setRequest_eq_shape (g : Config) (lat : Byte) (f : ScaledField) (p : Phys) (ph : Phase) :
    setRequest g f p ph = (setShape g f p).request g lat ph := by
  simp only [setRequest, setShape]
  cases encodeScaled (fieldDesc g f) p <;> rfl

/-- `request` is the shape's. -/
theorem request_eq_shape (g : Config) (lat : Byte) (i : Instr) (ph : Phase) :
    request g lat i ph = (shapeOf g i).request g lat ph := by
  cases i with
  | enc f p =>
    simp only [request, shapeOf]
    cases encodeScaled (fieldDesc g f) p <;> rfl
  | wbf a m v =>
    simp only [request, shapeOf]
    cases confined v m <;> rfl
  | setVbat p => exact setRequest_eq_shape _ _ _ _ _
  | setIchg p => exact setRequest_eq_shape _ _ _ _ _
  | setVindpm p => exact setRequest_eq_shape _ _ _ _ _
  | setIindpm p => exact setRequest_eq_shape _ _ _ _ _
  | _ => rfl

/-- The transactions of a shape. -/
def Shape.transactions : Shape → List TKind
  | .pure _     => []
  | .reject _   => []
  | .read _ _   => [.r]
  | .write _ _  => [.w]
  | .modify _ _ => [.r, .w]
  | .verify _ _ => [.r, .w, .r]

/-- A command's shape is to turn the command away by the kind its validation gives, or has the command's
transactions. -/
theorem shapeOf_validation (g : Config) (i : Instr) :
    match validation g i with
    | some x => shapeOf g i = .reject x
    | none   => (shapeOf g i).transactions = transactions i ∧ ∀ x, shapeOf g i ≠ .reject x := by
  have hset : ∀ f p, match (if inRange (fieldDesc g f) p then none else some ErrorKind.outOfRange) with
      | some x => setShape g f p = .reject x
      | none   => (setShape g f p).transactions = [.w] ∧ ∀ x, setShape g f p ≠ .reject x := by
    intro f p
    cases h : inRange (fieldDesc g f) p <;> simp [setShape, encodeScaled, h, Shape.transactions]
  cases i with
  | enc f p =>
    simp only [validation, shapeOf]
    cases h : inRange (fieldDesc g f) p <;> simp [encodeScaled, h, Shape.transactions, transactions]
  | wbf a m v =>
    simp only [validation, shapeOf]
    cases confined v m <;> simp [Shape.transactions, transactions]
  | setVbat p => exact hset _ _
  | setIchg p => exact hset _ _
  | setVindpm p => exact hset _ _
  | setIindpm p => exact hset _ _
  | _ => exact ⟨rfl, fun _ h => nomatch h⟩

end Sys2Proof.Machine
end

