-- ==== Sys2Proof/Tests/Slice0.lean ====
section
/-! SUPPORT. The model's own tests: the smoke test of WellFormed, decoding, one step of every command, and a witness for
the hypotheses of every obligation. Expected words, responses and transactions are those printed in
`spec/95_test_vectors.md` (sections 3, 4) and `spec/96_test_vectors_composite.md` (4.9, 4.10), or are written out from
`spec/30_encoding.md` R80 to R84. -/

namespace Sys2Proof.Tests

open Sys2Proof Sys2Proof.Machine

/-! ### WellFormed: for each check an ill-formed term it refuses -/

theorem test_wf_op_unassigned :
    (RawCmd.mk 0x00 0 0 0 0).opAssigned = false ∧ (RawCmd.mk 0x0B 0 0 0 0).opAssigned = false ∧
    (RawCmd.mk 0x0F 0 1 2 3).opAssigned = false ∧ (RawCmd.mk 0x15 0 0 0 0).opAssigned = false ∧
    (RawCmd.mk 0x17 0 0 0 0).opAssigned = false ∧ (RawCmd.mk 0x1D 0 0 0 0).opAssigned = false ∧
    (RawCmd.mk 0x1F 7 255 255 255).wellFormed = false := by decide

theorem test_wf_sel_out_of_range :
    (RawCmd.mk 0x01 4 0 0 0).selInRange = false ∧ (RawCmd.mk 0x02 4 0 0 0).selInRange = false ∧
    (RawCmd.mk 0x10 4 0 0 0).selInRange = false ∧ (RawCmd.mk 0x09 6 0 0 0).selInRange = false ∧
    (RawCmd.mk 0x0A 2 0 0 0).selInRange = false ∧ (RawCmd.mk 0x03 1 0 0 0).selInRange = false ∧
    (RawCmd.mk 0x11 1 0 0 0).wellFormed = false := by decide

theorem test_wf_unused_not_zero :
    (RawCmd.mk 0x01 0 1 0 0).unusedZero = false ∧ (RawCmd.mk 0x02 0 0 1 0).unusedZero = false ∧
    (RawCmd.mk 0x03 0 0 0 1).unusedZero = false ∧ (RawCmd.mk 0x04 0 0 1 0).unusedZero = false ∧
    (RawCmd.mk 0x05 0 0 0 1).unusedZero = false ∧ (RawCmd.mk 0x18 0 0 0 4).unusedZero = false ∧
    (RawCmd.mk 0x14 0 0x0D 0 0).wellFormed = false := by decide

theorem test_wf_field_desc :
    (FieldDesc.mk 0 0 0 0 10).wellFormed = false ∧ (FieldDesc.mk 0 5 11 10 20).wellFormed = false ∧
    (FieldDesc.mk 0 5 0 20 10).wellFormed = false ∧ (FieldDesc.mk 0 257 0 0 65536).wellFormed = false ∧
    (FieldDesc.mk 0 1 0 0 256).wellFormed = false ∧ (FieldDesc.mk 0 257 1 1 1).wellFormed = false ∧
    (FieldDesc.mk 0 5 3500 3500 4775).wellFormed = true := by decide

theorem test_wf_flag_set :
    flagSetWellFormed (List.replicate 17 ⟨1, "A"⟩) = false ∧ flagSetWellFormed [⟨0, "A"⟩] = false ∧
    flagSetWellFormed [⟨0x0C, "A"⟩, ⟨0x04, "B"⟩] = false ∧ flagSetWellFormed [⟨0x04, "A"⟩, ⟨0x0C, "B"⟩] = false ∧
    flagSetWellFormed [⟨0x04, "A"⟩, ⟨0x08, "A"⟩] = false ∧
    flagSetWellFormed [⟨0x08, "A"⟩, ⟨0x80, "B"⟩, ⟨0x06, "C"⟩] = true := by decide

theorem test_wf_state_table :
    (StateTable.mk 0xFF (List.replicate 16 ⟨0, "A"⟩) "U").wellFormed = false ∧
    (StateTable.mk 0x30 [⟨0x40, "A"⟩] "U").wellFormed = false ∧
    (StateTable.mk 0x30 [⟨0x10, "A"⟩, ⟨0x20, "A"⟩] "U").wellFormed = false ∧
    (StateTable.mk 0x30 [⟨0x10, "A"⟩, ⟨0x10, "B"⟩] "U").wellFormed = true := by decide

theorem test_wf_charge_status :
    { Config.ref with csMask := 0x0E }.chargeStatusWellFormed = false ∧
    { Config.ref with csMask := 0x03 }.chargeStatusWellFormed = false ∧
    { Config.ref with csCcPat := 0x08 }.chargeStatusWellFormed = false ∧
    { Config.ref with csCcPat := 0x00 }.chargeStatusWellFormed = false ∧
    { Config.ref with csCcPat := 0x04 }.chargeStatusWellFormed = false := by decide

theorem test_wf_control :
    { Config.ref with wdMask := 0x10 }.controlWellFormed = false ∧
    { Config.ref with wdOffCode := 0x40 }.controlWellFormed = false ∧
    { Config.ref with chgEnMask := 0x18 }.controlWellFormed = false ∧
    { Config.ref with rstMask := 0x00 }.controlWellFormed = false ∧
    { Config.ref with wdEnt := [⟨0x40, "A"⟩] }.controlWellFormed = false := by decide

/-- Each of the three groups of checks can refuse a configuration; REFCFG passes all. -/
theorem test_wf_config :
    { Config.ref with dsFltMask := [⟨0, "A"⟩] }.wellFormed = false ∧
    { Config.ref with csCcPat := 0x06, csMask := 0x02 }.wellFormed = false ∧
    { Config.ref with rstMask := 0 }.wellFormed = false ∧ Config.ref.wellFormed = true := by decide

/-! ### Decoding: the word of every constructor, written out from R80 to R84 -/

theorem test_decode_scaler :
    decode 0x08001068 = some (.enc .vbat 4200) ∧ decode 0x0B000000 = some (.enc .iindpm 0) ∧
    decode 0x108C0000 = some (.dec .vbat 0x8C) ∧ decode 0x12650000 = some (.dec .vindpm 0x65) := by decide

theorem test_decode_sequencers :
    decode 0x180D0000 = some (.rdb 0x0D) ∧ decode 0x2000008C = some (.wrb 0x00 0x8C) ∧
    decode 0x28060800 = some (.rmo 0x06 0x08) ∧ decode 0x30060800 = some (.rmc 0x06 0x08) ∧
    decode 0x38053010 = some (.wbf 0x05 0x30 0x10) ∧ decode 0x40061800 = some (.rmov 0x06 0x18) := by decide

/-- RMO bit by bit: op 00101, sel 000, a 00000110, b 00001000, c 00000000. -/
theorem test_decode_rmo_bits :
    decode (0b00101#5 ++ 0b000#3 ++ 0b00000110#8 ++ 0b00001000#8 ++ 0b00000000#8) = some (.rmo 0x06 0x08) := by decide

theorem test_decode_extractor :
    decode 0x48880000 = some (.dfl .intStat 0x88) ∧ decode 0x49A00000 = some (.dfl .fltStat 0xA0) ∧
    decode 0x4A080000 = some (.dfl .intFlag 0x08) ∧ decode 0x4B200000 = some (.dfl .fltFlag 0x20) ∧
    decode 0x4C000000 = some (.dfl .intMask 0x00) ∧ decode 0x4DFF0000 = some (.dfl .fltMask 0xFF) ∧
    decode 0x50040000 = some (.dms .chgStat 0x04) ∧ decode 0x519D0000 = some (.dms .wdTimeout 0x9D) := by decide

theorem test_decode_setters :
    decode 0x80001068 = some (.setVbat 4200) ∧ decode 0x81001770 = some (.setIchg 6000) ∧
    decode 0x82001194 = some (.setVindpm 4500) ∧ decode 0x8300FFFF = some (.setIindpm 65535) := by decide

theorem test_decode_format_z :
    decode 0x88000000 = some .chgEn ∧ decode 0x90000000 = some .chgDis ∧ decode 0x98000000 = some .wdDis ∧
    decode 0xA0000000 = some .regRst ∧ decode 0xC0000000 = some .getChgStat ∧ decode 0xC8000000 = some .getIntStat ∧
    decode 0xD0000000 = some .getFltStat ∧ decode 0xD8000000 = some .getIntFlag ∧
    decode 0xE0000000 = some .getFltFlag := by decide

/-- The illegal words of section 4.10. -/
theorem test_decode_illegal :
    [0x00000000#32, 0xFFFFFFFF#32, 0x58000000#32, 0x78010203#32, 0xA8000000#32, 0xB8000000#32, 0xE8000000#32,
     0x0C001068#32, 0x0F000000#32, 0x08011068#32, 0x148C0000#32, 0x108C0001#32, 0x108C0100#32, 0x19070000#32,
     0x18070001#32, 0x2000018C#32].map decode = List.replicate 16 none ∧
    [0x28060801#32, 0x32060800#32, 0x39053010#32, 0x40060880#32, 0x4E880000#32, 0x4F880000#32, 0x48880001#32,
     0x52040000#32, 0x50041000#32, 0x84001068#32, 0x80011068#32, 0x88000001#32, 0x89000000#32, 0xA00D0000#32,
     0xC0000004#32, 0xE0000100#32].map decode = List.replicate 16 none := by decide

/-- The table's word of a row, placed at the `cmd` port, is the row's command. -/
theorem test_table_word :
    decodeTableWord 32 0x38053010 = some (.wbf 0x05 0x30 0x10) ∧ decodeTableWord 32 0x00000000 = none := by decide

/-- R96 and R97: an operand by index, a comment, white space, the two pseudo-instructions, and texts that are no
command. -/
theorem test_assemble :
    Assembler.assemble "ENC 0, 4200 ; 4.2 V" = some (.enc .vbat 4200) ∧
    Assembler.assemble "  DMS WD_TIMEOUT,0x9D" = some (.dms .wdTimeout 0x9D) ∧
    Assembler.assemble "SETL VBAT, 4200" = some (.setVbat 4200) ∧
    Assembler.assemble "CLRF 0x06, 0x08" = some (.wbf 0x06 0x08 0) ∧
    Assembler.assemble "DFL 6, 0" = none ∧ Assembler.assemble "RDB 256" = none ∧
    Assembler.assemble "CHG_EN 1" = none := by decide

/-! ### One step of every command -/

/-- REFCFG in IDLE, the word presented and the transport's answers to hand. -/
def presented (w : Word) (answers : List TRsp) : State :=
  { State.reset with cmdIn := [w], trspIn := answers }

/-- What a step shows at the ports: the response offered, the requests issued, the answers left. -/
def shown (w : Word) (answers : List TRsp) : Option (Word × List TReq × List TRsp) :=
  match step (presented w answers) with
  | .next t => t.rsp.map fun r => (r, requestsOf t.trace, t.answers)
  | _       => none

/-- Section 4.1: on the grid, off it, and one above the largest value. -/
theorem test_enc :
    shown 0x08001068 [] = some (0x0000008C, [], []) ∧ shown 0x0B000991 [] = some (0x00000013, [], []) ∧
    shown 0x0A0036B1 [.err 1] = some (0x10000000, [], [.err 1]) := by decide

/-- Section 4.2: the largest byte of VBAT, and of VINDPM, above the field's range. -/
theorem test_dec :
    shown 0x10FF0000 [] = some (0x000012A7, [], []) ∧ shown 0x12FF0000 [] = some (0x000072D8, [], []) := by decide

/-- Section 4.4. -/
theorem test_rdb :
    shown 0x18FF0000 [.ok 0xA5] = some (0x000000A5, [.read 0x4B 0xFF], []) ∧
    shown 0x18070000 [.err 0x5A] = some (0x3000005A, [.read 0x4B 0x07], []) := by decide

/-- Section 4.4. -/
theorem test_wrb :
    shown 0x200E00FF [.ok 0x77] = some (0x00000000, [.write 0x4B 0x0E 0xFF], []) ∧
    shown 0x2000008C [.err 0x01] = some (0x30000001, [.write 0x4B 0x00 0x8C], []) := by decide

/-- Sections 4.5, 4.6. -/
theorem test_rmo :
    shown 0x28060800 [.ok 0x33, .ok 0] = some (0x00000000, [.read 0x4B 0x06, .write 0x4B 0x06 0x3B], []) ∧
    shown 0x28060800 [.err 0xE1, .ok 0] = some (0x300000E1, [.read 0x4B 0x06], [.ok 0]) := by decide

/-- Sections 4.5, 4.6. -/
theorem test_rmc :
    shown 0x30060800 [.ok 0x3B, .ok 0] = some (0x00000000, [.read 0x4B 0x06, .write 0x4B 0x06 0x33], []) ∧
    shown 0x30060800 [.ok 0x3B, .err 0xE2] =
      some (0x300000E2, [.read 0x4B 0x06, .write 0x4B 0x06 0x33], []) := by decide

/-- Section 4.5. -/
theorem test_wbf :
    shown 0x38053020 [.ok 0x9D, .ok 0] = some (0x00000000, [.read 0x4B 0x05, .write 0x4B 0x05 0xAD], []) ∧
    shown 0x38053002 [.ok 0x9D] = some (0x20000000, [], [.ok 0x9D]) := by decide

/-- Section 4.5: the read-back shows both bits; on the stuck device it does not. -/
theorem test_rmov :
    shown 0x40061800 [.ok 0x23, .ok 0, .ok 0x3B] =
      some (0x00000000, [.read 0x4B 0x06, .write 0x4B 0x06 0x3B, .read 0x4B 0x06], []) ∧
    shown 0x40061800 [.ok 0x23, .ok 0, .ok 0x33] =
      some (0x40000033, [.read 0x4B 0x06, .write 0x4B 0x06 0x3B, .read 0x4B 0x06], []) := by decide

/-- Section 4.6: a failed read-back is TRANSPORT_ERROR, with payload 0 where the information is 0. -/
theorem test_rmov_transport :
    shown 0x40060800 [.ok 0x33, .ok 0, .err 0x00] =
      some (0x30000000, [.read 0x4B 0x06, .write 0x4B 0x06 0x3B, .read 0x4B 0x06], []) := by decide

/-- Section 4.7. -/
theorem test_dfl :
    shown 0x488C0000 [] = some (0x00000011, [], []) ∧ shown 0x4DFF0000 [] = some (0x00000007, [], []) := by decide

/-- Section 4.7's second configuration: masks of several bits, in declaration order. -/
theorem test_dfl_order :
    hitVector [⟨0x08, "A"⟩, ⟨0x80, "B"⟩, ⟨0x06, "C"⟩] 0x88 = 0x0003 ∧
    hitVector [⟨0x08, "A"⟩, ⟨0x80, "B"⟩, ⟨0x06, "C"⟩] 0x04 = 0x0000 ∧
    conditionNames [⟨0x08, "A"⟩, ⟨0x80, "B"⟩, ⟨0x06, "C"⟩] 0x0007 = ["A", "B", "C"] := by decide

/-- Section 4.8. -/
theorem test_dms :
    shown 0x50FB0000 [] = some (0x00000001, [], []) ∧ shown 0x50060000 [] = some (0x00000000, [], []) ∧
    shown 0x519D0000 [] = some (0x00000002, [], []) := by decide

/-- Section 4.9. -/
theorem test_set_vbat :
    shown 0x8000106C [.ok 0] = some (0x00000000, [.write 0x4B 0x00 0x8C], []) ∧
    shown 0x80000BB8 [.err 0x77] = some (0x10000000, [], [.err 0x77]) := by decide

/-- Section 4.9. -/
theorem test_set_ichg :
    shown 0x81000BB8 [.ok 0] = some (0x00000000, [.write 0x4B 0x01 0x3C], []) ∧
    shown 0x81001771 [] = some (0x10000000, [], []) := by decide

/-- Section 4.9. -/
theorem test_set_vindpm :
    shown 0x820036B0 [.ok 0] = some (0x00000000, [.write 0x4B 0x02 0x65], []) ∧
    shown 0x82000F3B [] = some (0x10000000, [], []) := by decide

/-- Section 4.9. -/
theorem test_set_iindpm :
    shown 0x83000991 [.ok 0] = some (0x00000000, [.write 0x4B 0x03 0x13], []) ∧
    shown 0x830001F3 [] = some (0x10000000, [], []) := by decide

/-- Section 4.9: on the ideal and on the stuck device. -/
theorem test_chg_en :
    shown 0x88000000 [.ok 0x33, .ok 0, .ok 0x3B] =
      some (0x00000000, [.read 0x4B 0x06, .write 0x4B 0x06 0x3B, .read 0x4B 0x06], []) ∧
    shown 0x88000000 [.ok 0x33, .ok 0, .ok 0x33] =
      some (0x40000033, [.read 0x4B 0x06, .write 0x4B 0x06 0x3B, .read 0x4B 0x06], []) := by decide

/-- Section 4.9. -/
theorem test_chg_dis :
    shown 0x90000000 [.ok 0x3B, .ok 0] = some (0x00000000, [.read 0x4B 0x06, .write 0x4B 0x06 0x33], []) := by decide

/-- Section 4.9. -/
theorem test_wd_dis :
    shown 0x98000000 [.ok 0xFF, .ok 0] = some (0x00000000, [.read 0x4B 0x05, .write 0x4B 0x05 0xCF], []) := by decide

/-- Section 4.9. -/
theorem test_reg_rst :
    shown 0xA0000000 [.ok 0x0A, .ok 0] = some (0x00000000, [.read 0x4B 0x0D, .write 0x4B 0x0D 0x8A], []) := by decide

/-- Section 4.9. -/
theorem test_get_chg_stat :
    shown 0xC0000000 [.ok 0x84] = some (0x00000002, [.read 0x4B 0x07], []) ∧
    shown 0xC0000000 [.ok 0x86] = some (0x00000000, [.read 0x4B 0x07], []) := by decide

/-- Section 4.9. -/
theorem test_get_int_stat : shown 0xC8000000 [.ok 0x8C] = some (0x00000011, [.read 0x4B 0x07], []) := by decide

/-- Section 4.9. -/
theorem test_get_flt_stat : shown 0xD0000000 [.ok 0xA0] = some (0x00000005, [.read 0x4B 0x08], []) := by decide

/-- Section 4.9. -/
theorem test_get_int_flag : shown 0xD8000000 [.ok 0x08] = some (0x00000010, [.read 0x4B 0x09], []) := by decide

/-- Section 4.9. -/
theorem test_get_flt_flag :
    shown 0xE0000000 [.ok 0x40] = some (0x00000002, [.read 0x4B 0x0A], []) ∧
    shown 0xE0000000 [.err 0xFF] = some (0x300000FF, [.read 0x4B 0x0A], []) := by decide

/-- Section 4.10. -/
theorem test_illegal : shown 0x00000000 [.ok 0] = some (0xF0000000, [], [.ok 0]) := by decide

/-- The next step from a row's word placed by `withFetchWord` runs it (CHG_EN waits for its first answer). -/
theorem test_fetch_word :
    step (State.reset.withFetchWord 32 0x88000000) = .next
      { State.reset with
        phase := .rd, cmd := 0x88000000, treq := some (.read 0x4B 0x06)
        trace := [.cmd 0x88000000, .treq (.read 0x4B 0x06)] } := rfl

/-! ### Witnesses: for every obligation with hypotheses, states and operands that meet them -/

/-- A command begun: PHASE = EXEC, with the transport's answers to hand. -/
def begun (answers : List TRsp) : State := { State.reset with phase := .exec, trspIn := answers }

/-- RMOV 0x06, 0x08 waiting for the answer to its read, with answers. -/
def waitingRd (answers : List TRsp) : State :=
  { State.reset with
    phase := .rd, cmd := 0x40060800, treq := some (.read 0x4B 0x06), trspIn := answers
    trace := [.cmd 0x40060800, .treq (.read 0x4B 0x06)] }

/-- RMOV 0x06, 0x08 waiting for the answer to its write. -/
def waitingWr (answers : List TRsp) : State :=
  { State.reset with
    phase := .wr, cmd := 0x40060800, lat := 0x33, treq := some (.write 0x4B 0x06 0x3B), trspIn := answers
    trace := [.cmd 0x40060800, .treq (.read 0x4B 0x06), .trsp (.ok 0x33), .treq (.write 0x4B 0x06 0x3B)] }

/-- RMOV 0x06, 0x08 waiting for the answer to its read-back. -/
def waitingVrd (answers : List TRsp) : State :=
  { State.reset with
    phase := .vrd, cmd := 0x40060800, lat := 0x33, treq := some (.read 0x4B 0x06), trspIn := answers
    trace := [.cmd 0x40060800, .treq (.read 0x4B 0x06), .trsp (.ok 0x33), .treq (.write 0x4B 0x06 0x3B),
      .trsp (.ok 0), .treq (.read 0x4B 0x06)] }

/-- A response offered. -/
def responding (ready : Bool) : State :=
  { State.reset with phase := .resp, rsp := some 0x00000004, rspReady := ready, trace := [.cmd 0x00000000] }

theorem ref_wellFormed : State.reset.cfg.wellFormed = true := by decide

theorem decode_rmov : decode 0x40060800 = some (.rmov 0x06 0x08) := by decide

theorem waitingRd_safe (l : List TRsp) : Safe (waitingRd l) :=
  ⟨ref_wellFormed, rfl, .rmov 0x06 0x08, .read 0x4B 0x06, decode_rmov, rfl, rfl⟩

theorem waitingWr_safe (l : List TRsp) : Safe (waitingWr l) :=
  ⟨ref_wellFormed, rfl, .rmov 0x06 0x08, .write 0x4B 0x06 0x3B, decode_rmov,
    (by decide : request Config.ref 0x33 (.rmov 0x06 0x08) .wr = some (.write 0x4B 0x06 0x3B)), rfl⟩

theorem waitingVrd_safe (l : List TRsp) : Safe (waitingVrd l) :=
  ⟨ref_wellFormed, rfl, .rmov 0x06 0x08, .read 0x4B 0x06, decode_rmov, rfl, rfl⟩

theorem presented_safe (w : Word) (l : List TRsp) : Safe (presented w l) := ⟨ref_wellFormed, rfl, rfl⟩

theorem witness_EncodeOfDecodeIsTheWord : decode 0x38FFFFFF = some (.wbf 0xFF 0xFF 0xFF) := by decide

theorem witness_OpcodeRowsAreDisjointAndDecide :
    ∃ row ∈ opcodeRows, row.accepts 0x4DFF0000 = true :=
  ⟨_, List.mem_of_getElem? (i := 9) rfl, by decide⟩

/-- The bounds of VBAT are in range. -/
theorem witness_SaturationNeverChangesAValue :
    (fieldDesc Config.ref .vbat).wellFormed = true ∧ inRange (fieldDesc Config.ref .vbat) 3500 = true ∧
      inRange (fieldDesc Config.ref .vbat) 4775 = true := by decide

/-- Both clauses, at the bounds: 3500 and 4775 are in range, 3499 and 4776 are not. -/
theorem witness_EncEncodesOrRejects :
    (begun []).phase = .exec ∧
    (((fieldDesc Config.ref .vbat).min ≤ (3500 : Phys).toNat ∧ (3500 : Phys).toNat ≤ (fieldDesc Config.ref .vbat).max) ∧
      (fieldDesc Config.ref .vbat).min ≤ (4775 : Phys).toNat ∧ (4775 : Phys).toNat ≤ (fieldDesc Config.ref .vbat).max) ∧
    ¬ (fieldDesc Config.ref .vbat).min ≤ (3499 : Phys).toNat ∧
    ¬ (4776 : Phys).toNat ≤ (fieldDesc Config.ref .vbat).max := by decide

theorem witness_DecDecodesEveryByte : (begun []).phase = .exec := rfl

theorem witness_ScalerRoundTripWithinOneStep :
    (begun []).phase = .exec ∧ (fieldDesc (begun []).cfg .iindpm).min ≤ (2449 : Phys).toNat ∧
      (2449 : Phys).toNat ≤ (fieldDesc (begun []).cfg .iindpm).max := by decide

/-- Both clauses: byte 0x78 of ICHG decodes to the field's largest value, 0x79 to one above it. -/
theorem witness_EncOfDecIsTheByteOrOutOfRange :
    (begun []).phase = .exec ∧
    (decodeScaled (fieldDesc (begun []).cfg .ichg) 0x78).toNat ≤ (fieldDesc (begun []).cfg .ichg).max ∧
    ¬ (decodeScaled (fieldDesc (begun []).cfg .ichg) 0x79).toNat ≤ (fieldDesc (begun []).cfg .ichg).max := by decide

/-- Both clauses: 3900 and 14000 of VINDPM, then 3899 and 14001. -/
theorem witness_EncIsMonotonic :
    (begun []).phase = .exec ∧ (fieldDesc (begun []).cfg .vindpm).min ≤ (3900 : Phys).toNat ∧
    (14000 : Phys).toNat ≤ (fieldDesc (begun []).cfg .vindpm).max ∧
    (3899 : Phys).toNat < (fieldDesc (begun []).cfg .vindpm).min ∧
    (fieldDesc (begun []).cfg .vindpm).max < (14001 : Phys).toNat := by decide

/-- The three clauses of a read: no answer, an error, a byte. -/
theorem witness_RdbReadsTheRegister :
    (begun []).phase = .exec ∧ (begun []).answers = [] ∧ (begun [.err 1, .ok 2]).answers = .err 1 :: [.ok 2] ∧
      (begun [.ok 3]).answers = .ok 3 :: [] := by decide

/-- The three clauses of a write. -/
theorem witness_WrbWritesTheByte :
    (begun []).phase = .exec ∧ (begun []).answers = [] ∧ (begun [.err 1]).answers = .err 1 :: [] ∧
      (begun [.ok 3, .ok 4]).answers = .ok 3 :: [.ok 4] := by decide

/-- The five clauses of a read-modify-write command. -/
theorem witness_RmoSetsTheMaskBits :
    (begun []).phase = .exec ∧ (begun []).answers = [] ∧ (begun [.err 1]).answers = .err 1 :: [] ∧
      (begun [.ok 3]).answers = [.ok 3] ∧ (begun [.ok 3, .err 4]).answers = .ok 3 :: .err 4 :: [] ∧
      (begun [.ok 3, .ok 0, .ok 9]).answers = .ok 3 :: .ok 0 :: [.ok 9] := by decide

theorem witness_RmcClearsTheMaskBits :
    (begun [.ok 0x3B, .ok 0]).phase = .exec ∧ (begun [.ok 0x3B, .ok 0]).answers = .ok 0x3B :: .ok 0 :: [] ∧
      (begun [.ok 0x3B]).answers = [.ok 0x3B] ∧ (begun [.ok 0x3B, .err 1]).answers = .ok 0x3B :: .err 1 :: [] := by
  decide

/-- A value outside the mask, and one confined to it. -/
theorem witness_WbfReplacesTheField :
    (begun [.ok 0x9D, .ok 0]).phase = .exec ∧ (0x31 : Byte) &&& ~~~(0x30 : Byte) ≠ 0 ∧
      (0x30 : Byte) &&& ~~~(0x30 : Byte) = 0 ∧ (begun [.ok 0x9D, .ok 0]).answers = .ok 0x9D :: .ok 0 :: [] := by decide

/-- The clauses of a verifying command after its write. -/
theorem witness_RmovVerifiesTheMaskBits :
    (begun [.ok 1, .ok 0]).phase = .exec ∧ (begun [.ok 1, .ok 0]).answers = [.ok 1, .ok 0] ∧
      (begun [.ok 1, .ok 0, .err 7]).answers = .ok 1 :: .ok 0 :: .err 7 :: [] ∧
      (begun [.ok 1, .ok 0, .ok 7]).answers = .ok 1 :: .ok 0 :: .ok 7 :: [] := by decide

theorem witness_SequencerWriteIsUnconditionalAndKeepsOtherBits :
    (begun [.ok 0xFF]).phase = .exec ∧ (begun [.ok 0xFF]).answers = .ok 0xFF :: [] ∧
      (0 : Byte) &&& ~~~(0 : Byte) = 0 := by decide

theorem witness_DflAnswersTheHitVector : (begun []).phase = .exec := rfl

theorem witness_DflPropertiesOfWellFormedSets :
    (begun []).phase = .exec ∧ (begun []).cfg.wellFormed = true ∧
      (descs (begun []).cfg .intStat)[4]? = some ⟨0x08, "WATCHDOG_EXPIRED"⟩ ∧ (0x08 : Byte) &&& 0x88 = 0x08 := by decide

theorem witness_HitVectorCarriesTheOrderedConditions :
    (List.replicate 16 (FlagDesc.mk 1 "A")).length ≤ 16 := by decide

theorem witness_DmsAnswersTheFirstMatch : (begun []).phase = .exec ∧ (begun []).cfg.wellFormed = true := by decide

theorem witness_ChargeStatusHasThreeResults : (begun []).phase = .exec ∧ (begun []).cfg.wellFormed = true := by decide

/-- Both clauses at the bounds of IINDPM. -/
theorem witness_SettersWriteTheEncodedByte :
    (begun []).phase = .exec ∧ (fieldDesc (begun []).cfg .iindpm).min ≤ (500 : Phys).toNat ∧
    (3600 : Phys).toNat ≤ (fieldDesc (begun []).cfg .iindpm).max ∧
    ¬ (fieldDesc (begun []).cfg .iindpm).min ≤ (499 : Phys).toNat ∧
    ¬ (3601 : Phys).toNat ≤ (fieldDesc (begun []).cfg .iindpm).max := by decide

/-- Both clauses for each of the four fields: its largest value, and one above it. -/
theorem witness_SettersWriteUpperBitsAsZero :
    (begun []).phase = .exec ∧
    ∀ x ∈ [(ScaledField.vbat, (4775 : Phys), (4776 : Phys)), (.ichg, 6000, 6001), (.vindpm, 14000, 14001),
           (.iindpm, 3600, 3601)],
      ((fieldDesc (begun []).cfg x.1).min ≤ x.2.1.toNat ∧ x.2.1.toNat ≤ (fieldDesc (begun []).cfg x.1).max) ∧
      ¬ ((fieldDesc (begun []).cfg x.1).min ≤ x.2.2.toNat ∧ x.2.2.toNat ≤ (fieldDesc (begun []).cfg x.1).max) := by
  decide

theorem witness_ChgEnSetsAndVerifiesTheEnableBit :
    (begun [.ok 0x33, .ok 0, .ok 0x33]).phase = .exec ∧
      (begun [.ok 0x33, .ok 0, .ok 0x33]).answers = .ok 0x33 :: .ok 0 :: .ok 0x33 :: [] := by decide

theorem witness_ControlCommandsReadThenWrite :
    (begun [.ok 0x33, .ok 0]).phase = .exec ∧ (begun [.ok 0x33, .ok 0]).answers = .ok 0x33 :: .ok 0 :: [] := by decide

theorem witness_ReadBacksReadThenDecode :
    (begun [.ok 0x84]).phase = .exec ∧ (begun [.ok 0x84]).answers = .ok 0x84 :: [] := by decide

/-- Both clauses of a read-back: an answer that is no byte, and a byte. -/
theorem witness_CompositesHaveTheOutcomeOfTheirExpansion :
    (begun []).cfg.wellFormed = true ∧ (begun []).phase = .exec ∧ (begun [.ok 0x84]).answers = .ok 0x84 :: [] ∧
      ∀ r rest, (begun []).answers ≠ .ok r :: rest :=
  ⟨ref_wellFormed, rfl, rfl, fun _ _ h => nomatch h⟩

theorem witness_IllegalWordIsAnsweredIllegalCmd :
    (presented 0xFFFFFFFF []).cfg.wellFormed = true ∧ (presented 0xFFFFFFFF []).rstIn = false ∧
      (presented 0xFFFFFFFF []).phase = .idle ∧ (presented 0xFFFFFFFF []).cmdIn = 0xFFFFFFFF :: [] ∧
      (RawCmd.ofWord 0xFFFFFFFF).wellFormed = false := by decide

/-- A command that ends in each of the kinds. -/
theorem witness_CommandsRaiseOnlyTheirKinds :
    (∃ t, exec (.rmov 6 8) (begun [.ok 0, .ok 0, .ok 0]) = .next t ∧ t.phase = .resp) ∧
      (∃ t, exec (.rdb 6) (begun [.err 1]) = .next t ∧ t.phase = .resp) ∧
      (∃ t, exec (.wbf 5 0 1) (begun []) = .next t ∧ t.phase = .resp) ∧
      ∃ t, exec (.enc .vbat 0) (begun []) = .next t ∧ t.phase = .resp :=
  ⟨⟨_, rfl, rfl⟩, ⟨_, rfl, rfl⟩, ⟨_, rfl, rfl⟩, ⟨_, rfl, rfl⟩⟩

theorem witness_ValidationComesBeforeTheTransport :
    (begun [.err 1]).phase = .exec ∧ validation (begun [.err 1]).cfg (.setIindpm 499) = some .outOfRange ∧
      validation (begun [.err 1]).cfg (.enc .vbat 4776) = some .outOfRange ∧
      validation (begun [.err 1]).cfg (.wbf 5 0x30 0x40) = some .invalidFieldValue := by decide

/-- One state for each waiting phase. -/
theorem witness_TransportErrorEndsTheCommandAtOnce :
    (Safe (waitingRd [.err 9]) ∧ (waitingRd [.err 9]).rstIn = false ∧ (waitingRd [.err 9]).phase = .rd ∧
      (waitingRd [.err 9]).answers = .err 9 :: []) ∧
    (Safe (waitingWr [.err 9]) ∧ (waitingWr [.err 9]).rstIn = false ∧ (waitingWr [.err 9]).phase = .wr ∧
      (waitingWr [.err 9]).answers = .err 9 :: []) ∧
    (Safe (waitingVrd [.err 9]) ∧ (waitingVrd [.err 9]).rstIn = false ∧ (waitingVrd [.err 9]).phase = .vrd ∧
      (waitingVrd [.err 9]).answers = .err 9 :: []) :=
  ⟨⟨waitingRd_safe _, rfl, rfl, rfl⟩, ⟨waitingWr_safe _, rfl, rfl, rfl⟩, ⟨waitingVrd_safe _, rfl, rfl, rfl⟩⟩

/-- Each clause: a command with all its answers `Ok`; with an `Err` second; a command turned away; an illegal word. -/
theorem witness_TransactionsAreThoseOfTheTable :
    (begun [.ok 1, .ok 0, .ok 9]).phase = .exec ∧ validation (begun []).cfg (.rmov 6 8) = none ∧
    [TRsp.ok 1, .ok 0, .ok 9].length = (transactions (.rmov 6 8)).length ∧
    (begun [.ok 1, .ok 0, .ok 9]).answers = [.ok 1, .ok 0, .ok 9] ++ [] ∧
    [TRsp.ok 1].length < (transactions (.rmov 6 8)).length ∧
    (begun [.ok 1, .err 2]).answers = [.ok 1] ++ .err 2 :: [] ∧
    validation (begun []).cfg (.wbf 5 0 1) = some .invalidFieldValue ∧
    (∃ t, exec (.wbf 5 0 1) (begun []) = .next t) ∧ ∃ t, execIllegal (begun []) = .next t :=
  ⟨rfl, rfl, rfl, rfl, by decide, rfl, by decide, ⟨_, rfl⟩, ⟨_, rfl⟩⟩

/-- A command without a transaction, one that reads, and one that ends in a transport error. -/
theorem witness_FrameOfEveryCommand :
    (transactions (.dms .chgStat 4) = [] ∧ ∃ t, exec (.dms .chgStat 4) (begun []) = .next t) ∧
    (.r ∉ transactions (.wrb 0 0) ∧ ∃ t, exec (.wrb 0 0) (begun [.ok 0]) = .next t) ∧
    (transactions (.rmo 0 0) ≠ [.r, .w, .r] ∧ ∃ t, exec (.rmo 0 0) (begun [.ok 5, .err 1]) = .next t) :=
  ⟨⟨rfl, _, rfl⟩, ⟨by decide, _, rfl⟩, by decide, _, rfl⟩

/-- A step that issues two requests. -/
theorem witness_TransactionsGoToTheCommandsRegister :
    Safe (presented 0x40060800 [.ok 0x33]) ∧ ∃ t, step (presented 0x40060800 [.ok 0x33]) = .next t :=
  ⟨presented_safe _ _, _, rfl⟩

theorem witness_ConfigurationIsImmutable : ∃ t, step (presented 0x88000000 []) = .next t := ⟨_, rfl⟩

/-- Both clauses: a word presented in IDLE, and a command in VRD. -/
theorem witness_StepRunsTheDecodedCommand :
    ((presented 0x40060800 []).cfg.wellFormed = true ∧ (presented 0x40060800 []).rstIn = false ∧
      (presented 0x40060800 []).phase = .idle ∧ (presented 0x40060800 []).cmdIn = 0x40060800 :: [] ∧
      decode 0x40060800 = some (.rmov 0x06 0x08)) ∧
    (waitingVrd []).phase ≠ .idle ∧ (waitingVrd []).phase ≠ .resp ∧
      decode (waitingVrd []).cmd = some (.rmov 0x06 0x08) := by decide

/-- A word presented in IDLE; a command that waits in each of the three waiting phases. -/
theorem witness_WaitingThenResumingIsRunningThrough :
    ((presented 0x88000000 []).phase = .idle ∧ (presented 0x88000000 []).rstIn = false ∧
      (presented 0x88000000 []).cmdIn ≠ []) ∧
    (∃ t, exec (.rmov 6 8) (begun []) = .next t ∧ t.phase = .rd) ∧
    (∃ t, exec (.rmov 6 8) (begun [.ok 0x33]) = .next t ∧ t.phase = .wr) ∧
    ∃ t, exec (.rmov 6 8) (begun [.ok 0x33, .ok 0]) = .next t ∧ t.phase = .vrd :=
  ⟨⟨rfl, rfl, by decide⟩, ⟨_, rfl, rfl⟩, ⟨_, rfl, rfl⟩, ⟨_, rfl, rfl⟩⟩

/-- One state for each waiting phase. -/
theorem witness_NoAnswerMeansNoProgress :
    (Safe (waitingRd []) ∧ (waitingRd []).rstIn = false ∧ (waitingRd []).phase = .rd ∧ (waitingRd []).answers = []) ∧
    (Safe (waitingWr []) ∧ (waitingWr []).rstIn = false ∧ (waitingWr []).phase = .wr ∧ (waitingWr []).answers = []) ∧
    (Safe (waitingVrd []) ∧ (waitingVrd []).rstIn = false ∧ (waitingVrd []).phase = .vrd ∧
      (waitingVrd []).answers = []) :=
  ⟨⟨waitingRd_safe _, rfl, rfl, rfl⟩, ⟨waitingWr_safe _, rfl, rfl, rfl⟩, ⟨waitingVrd_safe _, rfl, rfl, rfl⟩⟩

/-- Both clauses: the host ready and not ready. -/
theorem witness_ResponseIsHeldUntilTaken :
    ((responding true).cfg.wellFormed = true ∧ (responding true).rstIn = false ∧ (responding true).phase = .resp ∧
      (responding true).rsp = some 4 ∧ (responding true).rspReady = true) ∧
    (responding false).rsp = some 4 ∧ (responding false).rspReady = false := by decide

/-- A step from a phase that is not IDLE, and one with a reset pending. -/
theorem witness_CommandsAreAcceptedOnlyInIdle :
    ((∃ t, step (waitingRd []) = .next t) ∧ (waitingRd []).phase ≠ .idle ∧ (waitingRd []).rstIn = false) ∧
    ((∃ t, step (presented 0x88000000 []).raiseRst = .next t) ∧ (presented 0x88000000 []).raiseRst.rstIn = true) :=
  ⟨⟨⟨_, rfl⟩, by decide, rfl⟩, ⟨_, rfl⟩, rfl⟩

theorem witness_ResetEventAbandonsTheCommand :
    (waitingVrd []).raiseRst.cfg.wellFormed = true ∧ (waitingVrd []).raiseRst.rstIn = true := by decide

/-- A reset with a request outstanding, its answer at hand or coming after the reset, and the answer of the next request
behind it; a reset with nothing outstanding; a command that waits and finds no answer. -/
theorem witness_AbandonedAnswerIsIgnored :
    ((waitingWr [.ok 7]).raiseRst.rstIn = true ∧ (waitingWr [.ok 7]).raiseRst.treq.isSome = true ∧
      ∃ t, step (waitingWr [.ok 7]).raiseRst = .next t ∧ t.answersAfter [.ok 8] = [.ok 8]) ∧
    ((waitingWr []).raiseRst.answers = [] ∧ (waitingWr []).raiseRst.treq.isSome = true ∧
      ∃ t, step (waitingWr []).raiseRst = .next t ∧ t.answersAfter [.ok 7] = [] ∧
        t.answersAfter [.ok 7, .ok 8] = [.ok 8]) ∧
    ((responding true).raiseRst.rstIn = true ∧ (responding true).raiseRst.treq = none ∧
      ∃ t, step (responding true).raiseRst = .next t) ∧
    ((waitingRd []).rstIn = false ∧ (waitingRd []).answers = [] ∧ ∃ t, step (waitingRd []) = .next t) :=
  ⟨⟨rfl, rfl, _, rfl, rfl⟩, ⟨rfl, rfl, _, rfl, rfl, rfl⟩, ⟨rfl, rfl, _, rfl⟩, rfl, rfl, _, rfl⟩

/-- With an abandoned request unanswered, a new request does not take the first answer that comes (the abandoned one's):
the command waits on, and takes the second. -/
theorem test_abandoned_answer_comes_late :
    step { waitingRd [.ok 7] with abandoned := 1 } = .next { waitingRd [.ok 7] with abandoned := 1 } ∧
    (({ waitingRd [.ok 7, .ok 8] with abandoned := 1 } : State).takeAnswer.map Prod.fst) = some (.ok 8) :=
  ⟨rfl, rfl⟩

/-- An ill-formed configuration, which a step refuses. -/
theorem witness_OnlyIllFormedConfigurationsAreRefused :
    { State.reset with cfg := { Config.ref with csCcPat := 0x04 } }.cfg.wellFormed = false ∧
      step { State.reset with cfg := { Config.ref with csCcPat := 0x04 } } = .refused .illFormedConfig :=
  ⟨by decide, rfl⟩

theorem witness_EveryStepKeepsTheMachineCoherent :
    Safe (waitingWr [.ok 0]) ∧ ∃ t, step (waitingWr [.ok 0]) = .next t := ⟨waitingWr_safe _, _, rfl⟩

theorem witness_SafeStatesNeverStop : Safe (waitingVrd [.ok 0x33]) := waitingVrd_safe _

/-- Each waiting phase of a verifying command, and WR of a command that only writes. -/
theorem witness_EveryStepKeepsThePortProtocol :
    (Safe (waitingRd []) ∧ HistoryFits (waitingRd [])) ∧ (Safe (waitingWr []) ∧ HistoryFits (waitingWr [])) ∧
    (Safe (waitingVrd []) ∧ HistoryFits (waitingVrd [])) ∧ writeOrdinal 0x2000008C = 1 :=
  ⟨⟨waitingRd_safe _, .waiting 1, rfl, rfl⟩, ⟨waitingWr_safe _, .waiting 2, rfl, (by decide : Port.waiting 2 = .waiting (writeOrdinal 0x40060800))⟩,
    ⟨waitingVrd_safe _, .waiting 3, rfl, rfl⟩, by decide⟩

/-- Runs with a reset while a request is outstanding, and with one in EXEC. -/
theorem witness_EveryReachableStateIsSafe :
    Safe (presented 0x40060800 []) ∧ HistoryFits (presented 0x40060800 []) ∧
      Reach (presented 0x40060800 []) ((waitingRd []).input .rst) ∧
      Reach (presented 0x40060800 []) (((presented 0x40060800 []).input .acceptAlone).input .rst) :=
  ⟨presented_safe _ _, ⟨.free, rfl, rfl⟩, .input .rst (.step .refl (by rfl)), .input .rst (.input .acceptAlone .refl)⟩

theorem witness_EveryAnsweredCommandGetsOneResponse :
    Safe (presented 0x88000000 [.ok 0, .ok 0, .err 1]) ∧ (presented 0x88000000 [.ok 0, .ok 0, .err 1]).phase = .idle ∧
      (presented 0x88000000 [.ok 0, .ok 0, .err 1]).rstIn = false ∧
      (presented 0x88000000 [.ok 0, .ok 0, .err 1]).cmdIn = 0x88000000 :: [] ∧
      (presented 0x88000000 [.ok 0, .ok 0, .err 1]).rspReady = true ∧
      3 ≤ (presented 0x88000000 [.ok 0, .ok 0, .err 1]).answers.length :=
  ⟨presented_safe _ _, rfl, rfl, rfl, rfl, by decide⟩

/-- Two states that differ in every latch in IDLE, and two that differ in LAT, VLAT and EINFO in RD. -/
theorem witness_NothingIsKeptBetweenCommands :
    SameBut (presented 0x40060800 [.ok 1])
      { presented 0x40060800 [.ok 1] with cmd := 7, lat := 1, vlat := 2, einfo := 3 } ∧
    SameBut (waitingRd [.ok 1]) { waitingRd [.ok 1] with lat := 1, vlat := 2, einfo := 3 } :=
  ⟨⟨rfl, .inl rfl⟩, rfl, .inr (.inr rfl)⟩

end Sys2Proof.Tests
end

/-! ## The transitions of a command

R26's table, for the six shapes: one constructor of `Shape.Move` for each kind of transition. A command runs along
moves (`Shape.run_next`), so a claim about what a step keeps is proved move by move. -/

namespace Sys2Proof.Machine

/-! ### The phases of a shape -/

/-- The phases in which a shape waits for the transport, in order (R26, R56). -/
def Shape.waits : Shape → List Phase
  | .pure _     => []
  | .reject _   => []
  | .read _ _   => [.rd]
  | .write _ _  => [.wr]
  | .modify _ _ => [.rd, .wr]
  | .verify _ _ => [.rd, .wr, .vrd]

/-- Where a phase stands among a shape's: 0 for EXEC, n for its n-th transaction's. -/
def Shape.position (sh : Shape) (ph : Phase) : Nat := (Phase.exec :: sh.waits).idxOf ph

/-- The waiting phase that follows a phase, none after the last (R26). -/
def Shape.nextPhase (sh : Shape) (ph : Phase) : Option Phase := sh.waits[sh.position ph]?

/-- The response a shape ends with, once its last transaction has answered `ok b` (R26). -/
def Shape.verdict : Shape → Byte → Status × Phys
  | .read _ f, b   => (.ok, f b)
  | .verify _ m, b => if fullySet m b then (.ok, 0) else (.error .verificationFailed, zext16 b)
  | _, _           => (.ok, 0)

variable {sh : Shape} {s t u : State} {ph p : Phase} {q : TReq} {g : Config} {b e : Byte} {rest : List TRsp}

theorem Shape.mem_waits_of_nextPhase (h : sh.nextPhase p = some ph) : ph ∈ sh.waits :=
  List.mem_of_getElem? h

theorem Shape.waits_cases (h : ph ∈ sh.waits) : ph = .rd ∨ ph = .wr ∨ ph = .vrd := by
  cases sh <;> simp [Shape.waits] at h <;> tauto

theorem Shape.ne_resp_of_waits (h : ph ∈ sh.waits) : ph ≠ .resp := by
  rcases Shape.waits_cases h with rfl | rfl | rfl <;> decide

theorem Shape.position_nextPhase (h : sh.nextPhase p = some ph) : sh.position ph = sh.position p + 1 := by
  have hnodup : (Phase.exec :: sh.waits).Nodup := by cases sh <;> simp [Shape.waits]
  obtain ⟨hlt, rfl⟩ := List.getElem?_eq_some_iff.1 h
  exact hnodup.idxOf_getElem (sh.position p + 1) (by simpa using hlt)

/-- A shape has a request exactly in the phases in which it waits. -/
theorem Shape.mem_waits_iff (g : Config) (lat : Byte) : ph ∈ sh.waits ↔ ∃ q, sh.request g lat ph = some q := by
  cases sh <;> cases ph <;>
    simp [Shape.waits, Shape.request, readRequest, writeRequest, rmwRequest, verifyRequest]

/-- LAT matters to a request only in WR, after the read (R139). -/
theorem Shape.request_congr_lat (h : sh.nextPhase p = some ph) (hp : p ≠ .rd) (lat lat' : Byte) :
    sh.request g lat ph = sh.request g lat' ph := by
  cases sh <;> cases p <;> simp [Shape.nextPhase, Shape.position, Shape.waits] at h hp <;> subst h <;> rfl

/-! ### The transitions -/

/-- The state once `ok b` is taken for the outstanding request: the byte is latched in LAT in RD, in VLAT in VRD (R22,
R23, R26). -/
def State.took (s : State) (b : Byte) (rest : List TRsp) : State :=
  { s.answered (.ok b) rest with
    lat  := if s.phase = .rd then b else s.lat
    vlat := if s.phase = .vrd then b else s.vlat }

/-- The single transitions of R26's table from EXEC and from the waiting phases. -/
inductive Shape.Move (sh : Shape) (s : State) : State → Prop
  /-- EXEC to RESP with the payload computed. -/
  | respond {x : Phys} (hs : sh = .pure x) (hp : s.phase = .exec) : sh.Move s (s.respond x)
  /-- EXEC to RESP with an error, before any transaction. -/
  | reject {x : ErrorKind} (hs : sh = .reject x) (hp : s.phase = .exec) : sh.Move s (s.raise x)
  /-- EXEC to the first waiting phase, with its request. -/
  | start {ph : Phase} {q : TReq} (hp : s.phase = .exec) (hn : sh.nextPhase .exec = some ph)
      (hq : sh.request s.cfg s.lat ph = some q) : sh.Move s (s.issue q ph)
  /-- A waiting phase to RESP on `err`. -/
  | fail {e : Byte} {rest : List TRsp} (hp : s.phase ∈ sh.waits) (ha : s.answers = .err e :: rest) :
      sh.Move s ((s.answered (.err e) rest).raiseTransport e)
  /-- A waiting phase to the next one on `ok`, with its request. -/
  | goOn {b : Byte} {rest : List TRsp} {ph : Phase} {q : TReq} (hp : s.phase ∈ sh.waits)
      (ha : s.answers = .ok b :: rest) (hn : sh.nextPhase s.phase = some ph)
      (hq : sh.request s.cfg (s.took b rest).lat ph = some q) : sh.Move s ((s.took b rest).issue q ph)
  /-- The last waiting phase to RESP on `ok`. -/
  | finish {b : Byte} {rest : List TRsp} (hp : s.phase ∈ sh.waits) (ha : s.answers = .ok b :: rest)
      (hn : sh.nextPhase s.phase = none) : sh.Move s ((s.took b rest).offer (sh.verdict b).1 (sh.verdict b).2)

/-- Any number of transitions. -/
def Shape.Moves (sh : Shape) : State → State → Prop := Relation.ReflTransGen sh.Move

/-! ### A command runs along its transitions -/

/-- In RD a shape takes the answer to its read. -/
theorem Shape.run_rd (hm : .rd ∈ sh.waits) (hp : s.phase = .rd) : ∃ k, sh.run s = inRead k s := by
  cases sh with
  | read => exact ⟨_, readCommand_rd hp⟩
  | modify => exact ⟨_, modifyCommand_rd hp⟩
  | verify => exact ⟨_, verifyCommand_rd hp⟩
  | _ => simp [Shape.waits] at hm

/-- In WR a shape takes the answer to its write. -/
theorem Shape.run_wr (hm : .wr ∈ sh.waits) (hp : s.phase = .wr) : ∃ k, sh.run s = inWrite k s := by
  cases sh with
  | write => exact ⟨_, writeCommand_wr hp⟩
  | modify => exact ⟨_, modifyCommand_wr hp⟩
  | verify => exact ⟨_, verifyCommand_wr hp⟩
  | _ => simp [Shape.waits] at hm

/-- In VRD a shape takes the answer to its read-back. -/
theorem Shape.run_vrd (hm : .vrd ∈ sh.waits) (hp : s.phase = .vrd) : ∃ m, sh.run s = inVerify m s := by
  cases sh with
  | verify => exact ⟨_, verifyCommand_vrd hp⟩
  | _ => simp [Shape.waits] at hm

theorem Shape.run_waits (hm : s.phase ∈ sh.waits) (ha : s.answers = []) : sh.run s = .next s := by
  rcases Shape.waits_cases hm with hp | hp | hp
  · obtain ⟨k, hk⟩ := Shape.run_rd (hp ▸ hm) hp
    rw [hk, inRead_waits ha]
  · obtain ⟨k, hk⟩ := Shape.run_wr (hp ▸ hm) hp
    rw [hk, inWrite_waits ha]
  · obtain ⟨m, hk⟩ := Shape.run_vrd (hp ▸ hm) hp
    rw [hk, inVerify_waits ha]

theorem Shape.run_fails (hm : s.phase ∈ sh.waits) (ha : s.answers = .err e :: rest) :
    sh.run s = .next ((s.answered (.err e) rest).raiseTransport e) := by
  rcases Shape.waits_cases hm with hp | hp | hp
  · obtain ⟨k, hk⟩ := Shape.run_rd (hp ▸ hm) hp
    rw [hk, inRead_err ha]
  · obtain ⟨k, hk⟩ := Shape.run_wr (hp ▸ hm) hp
    rw [hk, inWrite_err ha]
  · obtain ⟨m, hk⟩ := Shape.run_vrd (hp ▸ hm) hp
    rw [hk, inVerify_err ha]

theorem State.took_wr (h : s.phase = .wr) : s.took b rest = s.answered (.ok b) rest := by
  simp [State.took, h, State.answered]

theorem State.took_rd (h : s.phase = .rd) : s.took b rest = { s.answered (.ok b) rest with lat := b } := by
  simp [State.took, h, State.answered]

theorem State.took_vrd (h : s.phase = .vrd) : s.took b rest = { s.answered (.ok b) rest with vlat := b } := by
  simp [State.took, h, State.answered]

theorem Shape.run_goesOn (hp : s.phase ∈ sh.waits) (ha : s.answers = .ok b :: rest)
    (hn : sh.nextPhase s.phase = some ph) (hq : sh.request s.cfg (s.took b rest).lat ph = some q) :
    sh.run s = sh.run ((s.took b rest).issue q ph) := by
  cases sh <;> cases hph : s.phase <;> simp [Shape.waits, Shape.nextPhase, Shape.position, hph] at hp hn <;>
    subst hn <;> simp [Shape.request, rmwRequest, verifyRequest] at hq <;> subst hq
  case modify.rd =>
    rw [Shape.run, modifyCommand_rd hph, readThenWrite, inRead_ok ha, ← State.took_rd hph]
    exact (modifyCommand_wr rfl).symm
  case verify.rd =>
    rw [Shape.run, verifyCommand_rd hph, readThenWrite, inRead_ok ha, ← State.took_rd hph]
    exact (verifyCommand_wr rfl).symm
  case verify.wr =>
    rw [Shape.run, verifyCommand_wr hph, inWrite_ok ha, ← State.took_wr hph]
    exact (verifyCommand_vrd rfl).symm

theorem Shape.run_finishes (hp : s.phase ∈ sh.waits) (ha : s.answers = .ok b :: rest)
    (hn : sh.nextPhase s.phase = none) :
    sh.run s = .next ((s.took b rest).offer (sh.verdict b).1 (sh.verdict b).2) := by
  cases sh <;> cases hph : s.phase <;> simp [Shape.waits, Shape.nextPhase, Shape.position, hph] at hp hn
  case read.rd =>
    rw [Shape.run, readCommand_rd hph, inRead_ok ha, State.took_rd hph]
    rfl
  case write.wr =>
    rw [Shape.run, writeCommand_wr hph, inWrite_ok ha, State.took_wr hph]
    rfl
  case modify.wr =>
    rw [Shape.run, modifyCommand_wr hph, inWrite_ok ha, State.took_wr hph]
    rfl
  case verify.vrd m =>
    rw [Shape.run, verifyCommand_vrd hph, inVerify_ok ha, State.took_vrd hph, Shape.verdict]
    cases fullySet m b <;> rfl

theorem Shape.run_starts (hp : s.phase = .exec) (hn : sh.nextPhase .exec = some ph)
    (hq : sh.request s.cfg s.lat ph = some q) : sh.run s = sh.run (s.issue q ph) := by
  cases sh <;> simp [Shape.nextPhase, Shape.position, Shape.waits] at hn <;> subst hn <;>
    simp [Shape.request, readRequest, writeRequest, rmwRequest, verifyRequest] at hq <;> subst hq
  case read a f => exact (readCommand_exec hp).trans (readCommand_rd (r := a) rfl).symm
  case write a v => exact (writeCommand_exec hp).trans (writeCommand_wr (r := a) (v := v) rfl).symm
  case modify => exact (modifyCommand_exec hp).trans (modifyCommand_rd rfl).symm
  case verify => exact (verifyCommand_exec hp).trans (verifyCommand_rd rfl).symm

/-- A move into RESP ends the run there, and a run goes on from a move into a waiting phase. -/
theorem Shape.Move.run_eq (h : sh.Move s u) : sh.run s = if u.phase = .resp then .next u else sh.run u := by
  cases h with
  | respond hs hp => subst hs; simp [Shape.run, pureCommand_exec hp]
  | reject hs hp => subst hs; simp [Shape.run, rejectCommand_exec hp]
  | start hp hn hq =>
    rw [Shape.run_starts hp hn hq, if_neg]
    exact Shape.ne_resp_of_waits (Shape.mem_waits_of_nextPhase hn)
  | fail hp ha => simp [Shape.run_fails hp ha]
  | goOn hp ha hn hq =>
    rw [Shape.run_goesOn hp ha hn hq, if_neg]
    exact Shape.ne_resp_of_waits (Shape.mem_waits_of_nextPhase hn)
  | finish hp ha hn => simp [Shape.run_finishes hp ha hn]

/-- A shape can move from EXEC, and from each of its waiting phases when the transport has answered. -/
theorem Shape.exists_move (hp : s.phase = .exec ∨ s.phase ∈ sh.waits) (ha : s.phase ∈ sh.waits → s.answers ≠ []) :
    ∃ u, sh.Move s u := by
  have hreq (lat : Byte) {p ph : Phase} (hn : sh.nextPhase p = some ph) : ∃ q, sh.request s.cfg lat ph = some q :=
    (Shape.mem_waits_iff _ _).1 (Shape.mem_waits_of_nextPhase hn)
  rcases hp with hp | hp
  · cases hn : sh.nextPhase .exec with
    | some ph =>
      obtain ⟨q, hq⟩ := hreq s.lat hn
      exact ⟨_, .start hp hn hq⟩
    | none =>
      cases sh <;> simp [Shape.nextPhase, Shape.position, Shape.waits] at hn
      · exact ⟨_, .respond rfl hp⟩
      · exact ⟨_, .reject rfl hp⟩
  · obtain h | ⟨e, rest, h⟩ | ⟨b, rest, h⟩ := answers_cases s
    · exact absurd h (ha hp)
    · exact ⟨_, .fail hp h⟩
    · cases hn : sh.nextPhase s.phase with
      | some ph =>
        obtain ⟨q, hq⟩ := hreq (s.took b rest).lat hn
        exact ⟨_, .goOn hp h hn hq⟩
      | none => exact ⟨_, .finish hp h hn⟩

/-- How far a phase is from RESP. -/
def Phase.toGo : Phase → Nat
  | .idle => 5 | .exec => 4 | .rd => 3 | .wr => 2 | .vrd => 1 | .resp => 0

/-- R26 has no way back to an earlier phase of a command. -/
theorem Shape.Move.toGo_lt (h : sh.Move s u) : u.phase.toGo < s.phase.toGo := by
  have hnext {p ph : Phase} (hn : sh.nextPhase p = some ph) (hp : p = .exec ∨ p ∈ sh.waits) : ph.toGo < p.toGo := by
    cases sh <;> cases p <;> simp [Shape.nextPhase, Shape.position, Shape.waits] at hn hp <;> subst hn <;> decide
  have hwait (hp : s.phase ∈ sh.waits) : Phase.resp.toGo < s.phase.toGo := by
    rcases Shape.waits_cases hp with h | h | h <;> rw [h] <;> decide
  cases h with
  | respond _ hp => simp [hp, Phase.toGo]
  | reject _ hp => simp [hp, Phase.toGo]
  | start hp hn => rw [hp]; exact hnext hn (.inl rfl)
  | fail hp => exact hwait hp
  | goOn hp _ hn => exact hnext hn (.inr hp)
  | finish hp => exact hwait hp

/-- The phases of a move are those in which the shape has a transition, and RESP. -/
theorem Shape.Move.phase_mem (h : sh.Move s u) : u.phase = .resp ∨ u.phase ∈ sh.waits := by
  cases h with
  | start _ hn => exact .inr (Shape.mem_waits_of_nextPhase hn)
  | goOn _ _ hn => exact .inr (Shape.mem_waits_of_nextPhase hn)
  | _ => exact .inl rfl

/-- In a phase in which R26 gives the shape a transition, a run answers a next state, along moves. -/
theorem Shape.run_total {s : State} (hp : s.phase = .exec ∨ s.phase ∈ sh.waits) :
    ∃ t, sh.run s = .next t ∧ sh.Moves s t := by
  by_cases hw : s.phase ∈ sh.waits ∧ s.answers = []
  · exact ⟨s, Shape.run_waits hw.1 hw.2, .refl⟩
  · obtain ⟨u, hu⟩ := Shape.exists_move hp fun h ha => hw ⟨h, ha⟩
    have hlt := hu.toGo_lt
    have hrun := hu.run_eq
    rcases hu.phase_mem with hr | hr
    · exact ⟨u, by rw [hrun, if_pos hr], .single hu⟩
    · obtain ⟨t, ht, hmoves⟩ := Shape.run_total (.inr hr)
      exact ⟨t, by rw [hrun, if_neg (Shape.ne_resp_of_waits hr), ht], .head hu hmoves⟩
termination_by s.phase.toGo

/-- In any other phase it is the fault of a missing transition. -/
theorem Shape.run_fault (he : s.phase ≠ .exec) (hw : s.phase ∉ sh.waits) : sh.run s = .fault .noTransition := by
  cases sh <;> cases hph : s.phase <;> simp [Shape.waits, hph] at he hw <;>
    simp [Shape.run, pureCommand, rejectCommand, readCommand, writeCommand, modifyCommand, verifyCommand, hph]

/-- Everything a command can do is a sequence of moves. -/
theorem Shape.run_next (h : sh.run s = .next t) : sh.Moves s t := by
  by_cases hp : s.phase = .exec ∨ s.phase ∈ sh.waits
  · obtain ⟨t', ht', hmoves⟩ := Shape.run_total hp
    cases h.symm.trans ht'
    exact hmoves
  · rw [not_or] at hp
    cases h.symm.trans (Shape.run_fault hp.1 hp.2)

theorem Shape.run_ne_refused {r : Refusal} : sh.run s ≠ .refused r := by
  by_cases hp : s.phase = .exec ∨ s.phase ∈ sh.waits
  · obtain ⟨t, ht, -⟩ := Shape.run_total hp
    simp [ht]
  · rw [not_or] at hp
    simp [Shape.run_fault hp.1 hp.2]

/-- What every move keeps, a run keeps. -/
theorem Shape.Moves.keeps {α : Type} {f : State → α} (hf : ∀ s u, sh.Move s u → f u = f s) (h : sh.Moves s t) :
    f t = f s := by
  induction h with
  | refl => rfl
  | tail _ hm ih => rw [hf _ _ hm, ih]

end Sys2Proof.Machine

/-! ## What a step can do -/

namespace Sys2Proof.Machine

variable {sh : Shape} {s t u : State} {g : Config} {i : Instr} {w : Word} {ws : List Word}

/-! ### The command in CMD -/

/-- The shape of what CMD holds; a word that is no command is turned away (R92). -/
def State.shape (s : State) : Shape :=
  match decode s.cmd with
  | some i => shapeOf s.cfg i
  | none   => .reject .illegalCmd

theorem State.shape_of_decode (h : decode s.cmd = some i) : s.shape = shapeOf s.cfg i := by
  simp [State.shape, h]

theorem State.shape_of_illegal (h : decode s.cmd = none) : s.shape = .reject .illegalCmd := by
  simp [State.shape, h]

theorem State.shape_congr (hg : t.cfg = s.cfg) (hc : t.cmd = s.cmd) : t.shape = s.shape := by
  simp only [State.shape, hg, hc]

/-- A shape that waits somewhere is a command's. -/
theorem State.decode_of_waits {ph : Phase} (h : ph ∈ s.shape.waits) : ∃ i, decode s.cmd = some i := by
  cases hd : decode s.cmd with
  | some i => exact ⟨i, rfl⟩
  | none => simp [State.shape_of_illegal hd, Shape.waits] at h

theorem runCommand_eq_run (s : State) : runCommand s = s.shape.run s := by
  cases hd : decode s.cmd with
  | some i => simp [runCommand, hd, State.shape_of_decode hd, exec_eq_run]
  | none => simp [runCommand, hd, State.shape_of_illegal hd, execIllegal, Shape.run]

/-! ### The step, case by case -/

theorem step_illFormed (hw : s.cfg.wellFormed = false) : step s = .refused .illFormedConfig := by
  simp [step, hw]

theorem step_resets (hw : s.cfg.wellFormed = true) (hr : s.rstIn = true) : step s = .next s.applyReset := by
  simp [step, hw, hr]

theorem step_idle_waits (hw : s.cfg.wellFormed = true) (hr : s.rstIn = false) (hp : s.phase = .idle)
    (hc : s.cmdIn = []) : step s = .next s := by
  simp [step, hw, hr, hp, hc]

theorem step_accepts (hw : s.cfg.wellFormed = true) (hr : s.rstIn = false) (hp : s.phase = .idle)
    (hc : s.cmdIn = w :: ws) : step s = runCommand (s.accept w ws) := by
  simp [step, hw, hr, hp, hc]

theorem step_takes (hw : s.cfg.wellFormed = true) (hr : s.rstIn = false) (hp : s.phase = .resp)
    (hy : s.rspReady = true) : step s = .next s.takeResponse := by
  simp [step, hw, hr, hp, hy]

theorem step_resp_waits (hw : s.cfg.wellFormed = true) (hr : s.rstIn = false) (hp : s.phase = .resp)
    (hy : s.rspReady = false) : step s = .next s := by
  simp [step, hw, hr, hp, hy]

theorem step_runs (hw : s.cfg.wellFormed = true) (hr : s.rstIn = false) (hi : s.phase ≠ .idle)
    (hp : s.phase ≠ .resp) : step s = runCommand s := by
  cases h : s.phase <;> simp_all [step]

/-- The ways a step under a well-formed configuration answers a next state. -/
inductive StepTo (s : State) : State → Prop
  | resets (hr : s.rstIn = true) : StepTo s s.applyReset
  | waits : StepTo s s
  | accepts {w : Word} {ws : List Word} {t : State} (hr : s.rstIn = false) (hp : s.phase = .idle)
      (hc : s.cmdIn = w :: ws) (hm : (s.accept w ws).shape.Moves (s.accept w ws) t) : StepTo s t
  | takes (hr : s.rstIn = false) (hp : s.phase = .resp) : StepTo s s.takeResponse
  | runs {t : State} (hr : s.rstIn = false) (hi : s.phase ≠ .idle) (hp : s.phase ≠ .resp)
      (hm : s.shape.Moves s t) : StepTo s t

/-- Everything a step can do. -/
theorem step_next (h : step s = .next t) : StepTo s t := by
  cases hw : s.cfg.wellFormed with
  | false => simp [step_illFormed hw] at h
  | true =>
    cases hr : s.rstIn with
    | true => rw [step_resets hw hr] at h; cases h; exact .resets hr
    | false =>
      by_cases hi : s.phase = .idle
      · cases hc : s.cmdIn with
        | nil => rw [step_idle_waits hw hr hi hc] at h; cases h; exact .waits
        | cons w ws =>
          rw [step_accepts hw hr hi hc, runCommand_eq_run] at h
          exact .accepts hr hi hc (Shape.run_next h)
      by_cases hp : s.phase = .resp
      · cases hy : s.rspReady with
        | true => rw [step_takes hw hr hp hy] at h; cases h; exact .takes hr hp
        | false => rw [step_resp_waits hw hr hp hy] at h; cases h; exact .waits
      · rw [step_runs hw hr hi hp, runCommand_eq_run] at h
        exact .runs hr hi hp (Shape.run_next h)

/-! ### What moves keep -/

/-- The fields no command writes (R30; R21 for CMD). -/
theorem Shape.Moves.fixed (h : sh.Moves s t) :
    t.cfg = s.cfg ∧ t.cmd = s.cmd ∧ t.cmdIn = s.cmdIn ∧ t.rspReady = s.rspReady ∧ t.rstIn = s.rstIn ∧
      t.draws = s.draws := by
  simpa using h.keeps (f := fun s => (s.cfg, s.cmd, s.cmdIn, s.rspReady, s.rstIn, s.draws)) fun s u hm => by
    cases hm <;> rfl

theorem Shape.Moves.shape_eq (h : sh.Moves s t) : t.shape = s.shape :=
  State.shape_congr h.fixed.1 h.fixed.2.1

/-- An invariant of the moves of the command in CMD holds after a run of it. -/
theorem Shape.Moves.invariant {P : State → Prop} (hP : ∀ s u, s.shape.Move s u → P s → P u)
    (h : s.shape.Moves s t) (hs : P s) : P t := by
  have hm : ∀ {u}, s.shape.Moves s u → P u := fun {u} h => by
    induction h with
    | refl => exact hs
    | tail h hm ih => exact hP _ _ ((Shape.Moves.shape_eq h).symm ▸ hm) ih
  exact hm h

/-- R30: a step keeps the configuration. -/
theorem step_keeps_cfg (h : step s = .next t) : t.cfg = s.cfg := by
  cases step_next h with
  | accepts hr hp hc hm => exact hm.fixed.1
  | runs hr hi hp hm => exact hm.fixed.1
  | _ => rfl

theorem input_keeps_cfg (s : State) (x : Input) : (s.input x).cfg = s.cfg := by
  cases x with
  | acceptAlone =>
    rcases acceptAlone_cases s with h | ⟨-, -, w, ws, -, h⟩
    · simp [State.input, h]
    · simp [State.input, h]
  | _ => rfl

end Sys2Proof.Machine

/-! ## The machine stays coherent -/

namespace Sys2Proof.Machine

variable {sh : Shape} {s t u : State}

theorem coherent_of_idle_or_exec (h : s.phase = .idle ∨ s.phase = .exec) :
    Coherent s ↔ s.treq = none ∧ s.rsp = none := by
  rcases h with h | h <;> simp [Coherent, h]

theorem coherent_of_resp (h : s.phase = .resp) :
    Coherent s ↔ s.treq = none ∧ ∃ st p, s.rsp = some (responseWord st p) := by
  simp [Coherent, h]

/-- In a waiting phase, coherence is about the request of the shape in CMD. -/
theorem coherent_of_waits (h : s.phase = .rd ∨ s.phase = .wr ∨ s.phase = .vrd) :
    Coherent s ↔ s.rsp = none ∧ ∃ q, s.shape.request s.cfg s.lat s.phase = some q ∧ s.treq = some q := by
  have hform : Coherent s ↔ s.rsp = none ∧ ∃ i q, decode s.cmd = some i ∧
      request s.cfg s.lat i s.phase = some q ∧ s.treq = some q := by
    rcases h with h | h | h <;> simp [Coherent, h]
  rw [hform]
  cases hd : decode s.cmd with
  | none => simp [State.shape_of_illegal hd, Shape.request]
  | some i => simp [State.shape_of_decode hd, request_eq_shape]

/-- In a coherent state whose command waits, the command's shape waits in that phase. -/
theorem Coherent.mem_waits (hs : Coherent s) (h : s.phase = .rd ∨ s.phase = .wr ∨ s.phase = .vrd) :
    s.phase ∈ s.shape.waits := by
  obtain ⟨-, q, hq, -⟩ := (coherent_of_waits h).1 hs
  exact (Shape.mem_waits_iff _ _).2 ⟨q, hq⟩

theorem Coherent.rsp_eq_none (hs : Coherent s) (h : s.phase ≠ .resp) : s.rsp = none := by
  cases hp : s.phase with
  | idle | exec => exact ((coherent_of_idle_or_exec (by simp [hp])).1 hs).2
  | rd | wr | vrd => exact ((coherent_of_waits (by simp [hp])).1 hs).1
  | resp => exact absurd hp h

/-- A request of the command in CMD makes a coherent state. -/
theorem coherent_issue {ph : Phase} {q : TReq} (hr : s.rsp = none) (hph : ph ∈ s.shape.waits)
    (hq : s.shape.request s.cfg s.lat ph = some q) : Coherent (s.issue q ph) :=
  (coherent_of_waits (Shape.waits_cases hph)).2 ⟨hr, q, hq, rfl⟩

theorem coherent_offer {st : Status} {p : Phys} (h : s.treq = none) : Coherent (s.offer st p) :=
  (coherent_of_resp rfl).2 ⟨h, st, p, rfl⟩

theorem coherent_idle (hp : s.phase = .idle) (hq : s.treq = none) (hr : s.rsp = none) : Coherent s :=
  (coherent_of_idle_or_exec (.inl hp)).2 ⟨hq, hr⟩

theorem Shape.Move.coherent (h : s.shape.Move s u) (hs : Coherent s) : Coherent u := by
  have hexec (hp : s.phase = .exec) := (coherent_of_idle_or_exec (.inr hp)).1 hs
  cases h with
  | respond _ hp => exact coherent_offer (hexec hp).1
  | reject _ hp => exact coherent_offer (hexec hp).1
  | start hp hn hq => exact coherent_issue (hexec hp).2 (Shape.mem_waits_of_nextPhase hn) hq
  | fail => exact coherent_offer rfl
  | goOn hp _ hn hq =>
    have hr : s.rsp = none := hs.rsp_eq_none (Shape.ne_resp_of_waits hp)
    exact coherent_issue (s := s.took _ _) hr (Shape.mem_waits_of_nextPhase hn) hq
  | finish => exact coherent_offer rfl

theorem Coherent.accept (hs : Coherent s) (hp : s.phase = .idle) (w : Word) (ws : List Word) :
    Coherent (s.accept w ws) :=
  (coherent_of_idle_or_exec (.inr rfl)).2 ((coherent_of_idle_or_exec (.inl hp)).1 hs)

theorem StepTo.coherent (h : StepTo s t) (hs : Coherent s) : Coherent t := by
  cases h with
  | resets => exact coherent_idle rfl rfl rfl
  | waits => exact hs
  | accepts _ hp _ hm => exact hm.invariant (fun _ _ h => h.coherent) (hs.accept hp _ _)
  | takes _ hp => exact coherent_idle rfl ((coherent_of_resp hp).1 hs).1 rfl
  | runs _ _ _ hm => exact hm.invariant (fun _ _ h => h.coherent) hs

theorem Coherent.input (hs : Coherent s) (x : Input) : Coherent (s.input x) := by
  cases x with
  | acceptAlone =>
    rcases acceptAlone_cases s with h | ⟨hp, -, w, ws, -, h⟩
    · simpa [State.input, h] using hs
    · simpa [State.input, h] using hs.accept hp w ws
  | _ => exact hs

/-- Settles O50: each move of R26's table leads from a coherent state to a coherent state. -/
theorem everyStepKeepsTheMachineCoherent : Obligations.EveryStepKeepsTheMachineCoherent := by
  rintro s ⟨hw, hs⟩
  refine ⟨fun t h => ⟨?_, (step_next h).coherent hs⟩, fun x => ⟨?_, hs.input x⟩⟩
  · rw [step_keeps_cfg h, hw]
  · rw [input_keeps_cfg, hw]

/-- Settles O51: a coherent state waits only in phases from which its command has a transition. -/
theorem safeStatesNeverStop : Obligations.SafeStatesNeverStop := by
  rintro s ⟨hw, hs⟩
  have hrun {u : State} (hu : u.phase = .exec ∨ u.phase ∈ u.shape.waits) : ∃ t, runCommand u = .next t := by
    obtain ⟨t, ht, -⟩ := Shape.run_total hu
    exact ⟨t, by rw [runCommand_eq_run, ht]⟩
  cases hr : s.rstIn with
  | true => exact ⟨_, step_resets hw hr⟩
  | false =>
    have hrunning (hi : s.phase ≠ .idle) (hp : s.phase ≠ .resp) (hu : s.phase = .exec ∨ s.phase ∈ s.shape.waits) :
        ∃ t, step s = .next t := by rw [step_runs hw hr hi hp]; exact hrun hu
    cases hp : s.phase with
    | idle =>
      cases hc : s.cmdIn with
      | nil => exact ⟨_, step_idle_waits hw hr hp hc⟩
      | cons w ws => rw [step_accepts hw hr hp hc]; exact hrun (.inl rfl)
    | exec => exact hrunning (by simp [hp]) (by simp [hp]) (.inl hp)
    | rd | wr | vrd => exact hrunning (by simp [hp]) (by simp [hp]) (.inr (hs.mem_waits (by simp [hp])))
    | resp =>
      cases hy : s.rspReady with
      | true => exact ⟨_, step_takes hw hr hp hy⟩
      | false => exact ⟨_, step_resp_waits hw hr hp hy⟩

end Sys2Proof.Machine

/-! ## The history follows the ports' protocol -/

namespace Sys2Proof.Machine

variable {sh : Shape} {s t u : State} {p p' : Port} {evs : List Event}

theorem Port.after_append (p : Port) (es es' : List Event) :
    p.after (es ++ es') = (p.after es).bind (·.after es') := by
  induction es generalizing p with
  | nil => rfl
  | cons e es ih => cases h : p.next e <;> simp [Port.after, h, ih]

/-- A history that stands at `p`, continued by events that lead from `p` to where the next state stands. -/
theorem HistoryFits.extend (h : Port.after .free s.trace = some p) (ht : u.trace = s.trace ++ evs)
    (hp : p.after evs = some p') (hu : p'.fits u) : HistoryFits u :=
  ⟨p', by rw [ht, Port.after_append, h]; exact hp, hu⟩

theorem Shape.position_exec (sh : Shape) : sh.position .exec = 0 := by simp [Shape.position]

theorem Shape.position_lt {ph q : Phase} (h : sh.nextPhase ph = some q) : sh.position ph < maxTransactions := by
  have hlen : sh.waits.length ≤ maxTransactions := by cases sh <;> simp [Shape.waits, maxTransactions]
  exact Nat.lt_of_lt_of_le (List.getElem?_eq_some_iff.1 h).1 hlen

/-- A command's write is the transaction the table of R56 says. -/
theorem writeOrdinal_eq_position (h : .wr ∈ s.shape.waits) : writeOrdinal s.cmd = s.shape.position .wr := by
  obtain ⟨i, hi⟩ := State.decode_of_waits h
  rw [State.shape_of_decode hi] at h ⊢
  have hv := shapeOf_validation s.cfg i
  cases hk : validation s.cfg i with
  | some x => simp only [hk] at hv; simp [hv, Shape.waits] at h
  | none =>
    simp only [hk] at hv
    simp only [writeOrdinal, hi, ← hv.1]
    cases hsh : shapeOf s.cfg i <;> simp [hsh, Shape.waits] at h <;>
      simp [Shape.transactions, Shape.position, Shape.waits]

/-- In a waiting phase the port stands at the transaction that the phase's place in R26 says. -/
theorem fits_of_waits (h : s.phase ∈ s.shape.waits) :
    p.fits s ↔ p = .waiting (s.shape.position s.phase) := by
  cases hp : s.phase <;> rw [hp] at h <;> simp only [Port.fits, hp]
  case wr => rw [writeOrdinal_eq_position h]
  all_goals cases hsh : s.shape <;> simp [hsh, Shape.waits] at h <;> simp [Shape.position, Shape.waits]

theorem fits_exec (h : s.phase = .exec) : p.fits s ↔ p = .busy 0 := by simp [Port.fits, h]

theorem fits_resp (h : s.phase = .resp) : p.fits s ↔ ∃ n, p = .busy n := by simp [Port.fits, h]

theorem fits_idle (h : s.phase = .idle) : p.fits s ↔ p = .free := by simp [Port.fits, h]

theorem Port.busy_after_treq {n : Nat} (q : TReq) (h : n < maxTransactions) :
    (Port.busy n).after [.treq q] = some (.waiting (n + 1)) := by
  simp [Port.after, Port.next, h]

theorem Port.waiting_after_trsp (n : Nat) (a : TRsp) (es : List Event) :
    (Port.waiting n).after (.trsp a :: es) = (Port.busy n).after es := rfl

/-- The next request of a command is the next transaction of its history. -/
theorem fits_issue {ph ph' : Phase} {q : TReq} (h : s.shape.nextPhase ph = some ph') :
    (Port.waiting (s.shape.position ph + 1)).fits (s.issue q ph') := by
  rw [← Shape.position_nextPhase h]
  exact (fits_of_waits (s := s.issue q ph') (Shape.mem_waits_of_nextPhase h)).2 rfl

theorem Shape.Move.historyFits (h : s.shape.Move s u) (hs : HistoryFits s) : HistoryFits u := by
  obtain ⟨p, hp, hfit⟩ := hs
  cases h with
  | respond _ he => exact ⟨p, hp, 0, (fits_exec he).1 hfit⟩
  | reject _ he => exact ⟨p, hp, 0, (fits_exec he).1 hfit⟩
  | start he hn =>
    cases (fits_exec he).1 hfit
    have hpos := Shape.position_exec s.shape
    exact .extend hp rfl (Port.busy_after_treq _ (by decide)) (hpos ▸ fits_issue hn)
  | fail hm =>
    cases (fits_of_waits hm).1 hfit
    exact .extend hp rfl (Port.waiting_after_trsp _ _ []) ⟨_, rfl⟩
  | @goOn _ _ _ q hm _ hn =>
    cases (fits_of_waits hm).1 hfit
    refine .extend hp (List.append_assoc _ _ _) ?_ (fits_issue (s := s.took _ _) hn)
    exact (Port.waiting_after_trsp _ _ _).trans (Port.busy_after_treq q (Shape.position_lt hn))
  | finish hm =>
    cases (fits_of_waits hm).1 hfit
    exact .extend hp rfl (Port.waiting_after_trsp _ _ []) ⟨_, rfl⟩

theorem HistoryFits.accept (hs : HistoryFits s) (hp : s.phase = .idle) (w : Word) (ws : List Word) :
    HistoryFits (s.accept w ws) := by
  obtain ⟨p, h, hfit⟩ := hs
  cases (fits_idle hp).1 hfit
  exact .extend h rfl rfl ((fits_exec rfl).2 rfl)

theorem StepTo.historyFits (h : StepTo s t) (hc : Coherent s) (hs : HistoryFits s) : HistoryFits t := by
  cases h with
  | resets =>
    obtain ⟨p, h, -⟩ := hs
    exact .extend (p' := .free) h rfl (by cases p <;> rfl) rfl
  | waits => exact hs
  | accepts _ hp _ hm => exact hm.invariant (fun _ _ h => h.historyFits) (hs.accept hp _ _)
  | takes _ hp =>
    obtain ⟨p, h, hfit⟩ := hs
    obtain ⟨n, rfl⟩ := (fits_resp hp).1 hfit
    obtain ⟨-, st, x, hr⟩ := (coherent_of_resp hp).1 hc
    exact .extend (p' := .free) h (by rw [State.takeResponse_trace, hr]) rfl rfl
  | runs _ _ _ hm => exact hm.invariant (fun _ _ h => h.historyFits) hs

theorem HistoryFits.input (hs : HistoryFits s) (x : Input) : HistoryFits (s.input x) := by
  cases x with
  | acceptAlone =>
    rcases acceptAlone_cases s with h | ⟨hp, -, w, ws, -, h⟩
    · simpa [State.input, h] using hs
    · simpa [State.input, h] using hs.accept hp w ws
  | _ => exact hs

/-- Settles O53: by induction on the run, the two invariants and the configuration being kept by every step and every
input. -/
theorem everyReachableStateIsSafe : Obligations.EveryReachableStateIsSafe := by
  intro s t hsafe hfits hreach
  have hinv : Safe t ∧ HistoryFits t ∧ t.cfg = s.cfg := by
    induction hreach with
    | refl => exact ⟨hsafe, hfits, rfl⟩
    | step _ hstep ih =>
      obtain ⟨ih, ihf, ihg⟩ := ih
      exact ⟨(everyStepKeepsTheMachineCoherent _ ih).1 _ hstep, (step_next hstep).historyFits ih.2 ihf,
        (step_keeps_cfg hstep).trans ihg⟩
    | input x _ ih =>
      obtain ⟨ih, ihf, ihg⟩ := ih
      exact ⟨(everyStepKeepsTheMachineCoherent _ ih).2 x, ihf.input x, (input_keeps_cfg _ x).trans ihg⟩
  exact ⟨hinv.1, hinv.2.1, hinv.2.2, safeStatesNeverStop t hinv.1⟩

end Sys2Proof.Machine

/-! ## What a command leaves alone, and where its transactions go -/

namespace Sys2Proof.Machine

variable {sh : Shape} {s t u : State} {g : Config} {i : Instr}

/-! ### The latches -/

theorem Shape.r_mem_of_rd (h : .rd ∈ sh.waits) : .r ∈ sh.transactions := by
  cases sh <;> simp [Shape.waits] at h <;> simp [Shape.transactions]

theorem Shape.transactions_of_vrd (h : .vrd ∈ sh.waits) : sh.transactions = [.r, .w, .r] := by
  cases sh <;> simp [Shape.waits] at h
  rfl

/-- The transactions of a command's shape are the command's, or none if the command is turned away. -/
theorem shapeOf_transactions (g : Config) (i : Instr) :
    (shapeOf g i).transactions = transactions i ∨ (shapeOf g i).transactions = [] := by
  have hv := shapeOf_validation g i
  cases hk : validation g i with
  | some x => simp only [hk] at hv; exact .inr (by rw [hv]; rfl)
  | none => simp only [hk] at hv; exact .inl hv.1

/-- Only a shape that reads writes LAT (R22). -/
theorem Shape.Moves.lat (h : sh.Moves s t) (hr : .r ∉ sh.transactions) : t.lat = s.lat := by
  have hne {ph : Phase} (hp : ph ∈ sh.waits) : ph ≠ .rd := fun hrd => hr (Shape.r_mem_of_rd (hrd ▸ hp))
  refine h.keeps fun s u hm => ?_
  cases hm with
  | goOn hp | finish hp => exact if_neg (hne hp)
  | _ => rfl

/-- Only a shape that verifies writes VLAT (R23). -/
theorem Shape.Moves.vlat (h : sh.Moves s t) (hr : sh.transactions ≠ [.r, .w, .r]) : t.vlat = s.vlat := by
  have hne {ph : Phase} (hp : ph ∈ sh.waits) : ph ≠ .vrd := fun hvrd => hr (Shape.transactions_of_vrd (hvrd ▸ hp))
  refine h.keeps fun s u hm => ?_
  cases hm with
  | goOn hp | finish hp => exact if_neg (hne hp)
  | _ => rfl

/-- Only a transport error writes EINFO, and it is then reported (R24). -/
theorem Shape.Moves.einfo (h : sh.Moves s t) :
    t.einfo = s.einfo ∨ (t.phase = .resp ∧ t.rsp = some (transportErrorWord t.einfo)) := by
  induction h with
  | refl => exact .inl rfl
  | tail _ hm ih =>
    have hlt := hm.toGo_lt
    rcases ih with ih | ⟨ih, -⟩
    · cases hm with
      | fail => exact .inr ⟨rfl, rfl⟩
      | _ => exact .inl ih
    · rw [ih] at hlt
      exact absurd hlt (Nat.not_lt_zero _)

/-- A shape with no transaction leaves the latches, the transport's port and the history alone. -/
theorem Shape.Moves.of_no_transaction (h : sh.Moves s t) (hn : sh.transactions = []) :
    t.lat = s.lat ∧ t.vlat = s.vlat ∧ t.einfo = s.einfo ∧ t.treq = s.treq ∧ t.trspIn = s.trspIn ∧
      t.abandoned = s.abandoned ∧ t.trace = s.trace := by
  have hw {ph : Phase} : ph ∉ sh.waits := by cases sh <;> simp [Shape.transactions] at hn <;> simp [Shape.waits]
  simpa using h.keeps (f := fun s => (s.lat, s.vlat, s.einfo, s.treq, s.trspIn, s.abandoned, s.trace))
    fun s u hm => by
      cases hm with
      | respond | reject => rfl
      | start _ hn => exact absurd (Shape.mem_waits_of_nextPhase hn) hw
      | fail hp | goOn hp | finish hp => exact absurd hp hw

/-! ### The history and the answers -/

theorem requestsOf_append (es es' : List Event) : requestsOf (es ++ es') = requestsOf es ++ requestsOf es' := by
  induction es with
  | nil => rfl
  | cons e es ih => cases e <;> simp [requestsOf, ih]

/-- The one register a shape's requests go to. -/
def Shape.register : Shape → Option Byte
  | .pure _     => none
  | .reject _   => none
  | .read a _   => some a
  | .write a _  => some a
  | .modify a _ => some a
  | .verify a _ => some a

theorem Shape.request_address {lat : Byte} {ph : Phase} {q : TReq} (h : sh.request g lat ph = some q) :
    q.dev = g.devAddr ∧ sh.register = some q.reg := by
  cases sh <;> cases ph <;>
    simp [Shape.request, readRequest, writeRequest, rmwRequest, verifyRequest] at h <;> subst h <;>
    exact ⟨rfl, rfl⟩

theorem setShape_register {f : ScaledField} {p : Phys} {a : Byte} (h : (setShape g f p).register = some a) :
    faddr g f = a := by
  simp only [setShape] at h
  cases he : encodeScaled (fieldDesc g f) p <;> simp [he, Shape.register] at h
  exact h

/-- A shape's register is its command's. -/
theorem registerOf_of_shape {a : Byte} (h : (shapeOf g i).register = some a) : registerOf g i = some a := by
  cases i with
  | enc f p =>
    simp only [shapeOf] at h
    cases he : encodeScaled (fieldDesc g f) p <;> simp [he, Shape.register] at h
  | wbf x m v =>
    simp only [shapeOf] at h
    cases hc : confined v m <;> simp [hc, Shape.register] at h
    exact congrArg some h
  | setVbat p | setIchg p | setVindpm p | setIindpm p => exact congrArg some (setShape_register h)
  | _ => exact h

/-- A piece of history in which every request goes to the device and to the shape's register. -/
def GoesTo (g : Config) (sh : Shape) (evs : List Event) : Prop :=
  ∀ q ∈ requestsOf evs, q.dev = g.devAddr ∧ sh.register = some q.reg

theorem goesTo_of_no_request {evs : List Event} (h : requestsOf evs = []) : GoesTo g sh evs := by
  simp [GoesTo, h]

theorem GoesTo.append {evs evs' : List Event} (h : GoesTo g sh evs) (h' : GoesTo g sh evs') :
    GoesTo g sh (evs ++ evs') := by
  intro q hq
  rw [requestsOf_append, List.mem_append] at hq
  exact hq.elim (h q) (h' q)

/-- A move only extends the history, by requests to its register. -/
theorem Shape.Move.trace (h : sh.Move s u) : ∃ evs, u.trace = s.trace ++ evs ∧ GoesTo s.cfg sh evs := by
  have hreq {lat : Byte} {ph : Phase} {q : TReq} (hq : sh.request s.cfg lat ph = some q) : GoesTo s.cfg sh [.treq q] :=
    fun _ hm => List.mem_singleton.1 hm ▸ Shape.request_address hq
  cases h with
  | respond | reject => exact ⟨[], (List.append_nil _).symm, goesTo_of_no_request rfl⟩
  | start _ _ hq => exact ⟨_, rfl, hreq hq⟩
  | fail | finish => exact ⟨_, rfl, goesTo_of_no_request rfl⟩
  | goOn _ _ _ hq => exact ⟨_, List.append_assoc _ _ _, GoesTo.append (goesTo_of_no_request rfl) (hreq hq)⟩

theorem Shape.Moves.trace (h : sh.Moves s t) : ∃ evs, t.trace = s.trace ++ evs ∧ GoesTo s.cfg sh evs := by
  induction h with
  | refl => exact ⟨[], (List.append_nil _).symm, goesTo_of_no_request rfl⟩
  | tail h hm ih =>
    obtain ⟨evs, ht, hg⟩ := ih
    obtain ⟨evs', ht', hg'⟩ := hm.trace
    rw [Shape.Moves.fixed h |>.1] at hg'
    exact ⟨evs ++ evs', by rw [ht', ht, List.append_assoc], hg.append hg'⟩

/-- Answers are only taken, in order. -/
theorem Shape.Moves.answers (h : sh.Moves s t) : ∃ taken, s.answers = taken ++ t.answers := by
  have hmove {s u : State} (h : sh.Move s u) : ∃ taken, s.answers = taken ++ u.answers := by
    cases h with
    | respond | reject | start => exact ⟨[], rfl⟩
    | fail _ ha | goOn _ ha | finish _ ha => exact ⟨[_], ha⟩
  induction h with
  | refl => exact ⟨[], rfl⟩
  | tail _ hm ih =>
    obtain ⟨taken, ht⟩ := ih
    obtain ⟨taken', ht'⟩ := hmove hm
    exact ⟨taken ++ taken', by rw [ht, ht', List.append_assoc]⟩

/-- Settles O38: the frame of the moves of the command's shape. -/
theorem frameOfEveryCommand : Obligations.FrameOfEveryCommand := by
  intro i s t h
  rw [exec_eq_run] at h
  have hm := Shape.run_next h
  have hsub := shapeOf_transactions s.cfg i
  obtain ⟨evs, htrace, -⟩ := hm.trace
  refine ⟨hm.fixed, ⟨evs, htrace⟩, hm.answers, fun hn => hm.of_no_transaction ?_, fun hr => hm.lat ?_,
    fun hv => hm.vlat ?_, hm.einfo⟩
  · exact hsub.elim (·.trans hn) id
  · rcases hsub with h | h <;> rw [h]
    · exact hr
    · exact List.not_mem_nil
  · rcases hsub with h | h <;> rw [h]
    · exact hv
    · exact List.cons_ne_nil _ _ |>.symm

/-- The register of the shape in CMD is that of a command. -/
theorem State.registerOf_of_shape {a : Byte} (h : s.shape.register = some a) :
    ∃ i, decode s.cmd = some i ∧ registerOf s.cfg i = some a := by
  cases hd : decode s.cmd with
  | none => simp [State.shape_of_illegal hd, Shape.register] at h
  | some i => exact ⟨i, rfl, Machine.registerOf_of_shape (State.shape_of_decode hd ▸ h)⟩

/-- Settles O39: every request of a move is the shape's. -/
theorem transactionsGoToTheCommandsRegister : Obligations.TransactionsGoToTheCommandsRegister := by
  intro s t _ h
  have hmoves {u : State} (hm : u.shape.Moves u t) : ∃ evs, t.trace = u.trace ++ evs ∧
      ∀ q ∈ requestsOf evs, q.dev = u.cfg.devAddr ∧ ∃ i, decode t.cmd = some i ∧ registerOf u.cfg i = some q.reg := by
    obtain ⟨evs, ht, hg⟩ := hm.trace
    obtain ⟨-, hcmd, -⟩ := hm.fixed
    refine ⟨evs, ht, fun q hq => ⟨(hg q hq).1, ?_⟩⟩
    rw [hcmd]
    exact State.registerOf_of_shape (hg q hq).2
  have hnone {evs : List Event} (h : requestsOf evs = []) : ∀ q ∈ requestsOf evs, q.dev = s.cfg.devAddr ∧
      ∃ i, decode t.cmd = some i ∧ registerOf s.cfg i = some q.reg := by simp [h]
  cases step_next h with
  | resets => exact ⟨_, rfl, hnone rfl⟩
  | waits => exact ⟨[], (List.append_nil _).symm, hnone rfl⟩
  | @accepts w ws _ _ _ _ hm =>
    obtain ⟨evs, ht, hg⟩ := hmoves hm
    exact ⟨.cmd w :: evs, by simp [ht], hg⟩
  | takes => exact ⟨_, rfl, hnone (by cases s.rsp <;> rfl)⟩
  | runs _ _ _ hm => exact hmoves hm

/-- Settles O40. -/
theorem configurationIsImmutable : Obligations.ConfigurationIsImmutable :=
  fun s _ => ⟨step_keeps_cfg, input_keeps_cfg s⟩

/-- Settles O45: only the step that accepts takes a word, and only it and a reset write CMD. -/
theorem commandsAreAcceptedOnlyInIdle : Obligations.CommandsAreAcceptedOnlyInIdle := by
  intro s t h
  cases step_next h with
  | resets hr => exact ⟨fun _ => rfl, fun _ hr' => by simp [hr] at hr'⟩
  | accepts hr hp => exact ⟨fun h => by simp [hr, hp] at h, fun h => absurd hp h⟩
  | runs _ _ _ hm =>
    obtain ⟨-, hcmd, hcmdIn, -⟩ := hm.fixed
    exact ⟨fun _ => hcmdIn, fun _ _ => hcmd⟩
  | waits | takes => exact ⟨fun _ => rfl, fun _ _ => rfl⟩

/-! ## The step -/

theorem runCommand_of_decode (h : decode s.cmd = some i) : runCommand s = exec i s := by
  simp [runCommand, h]

theorem runCommand_ne_refused {r : Refusal} : runCommand s ≠ .refused r := by
  rw [runCommand_eq_run]
  exact Shape.run_ne_refused

/-- Settles O41. -/
theorem stepRunsTheDecodedCommand : Obligations.StepRunsTheDecodedCommand := by
  intro s i hw hr
  refine ⟨fun w ws hp hc hd => ?_, fun hi hp hd => ?_⟩
  · rw [step_accepts hw hr hp hc, runCommand_of_decode (s := s.accept w ws) hd]
    rfl
  · rw [step_runs hw hr hi hp, runCommand_of_decode hd]

/-- Settles O44. -/
theorem responseIsHeldUntilTaken : Obligations.ResponseIsHeldUntilTaken := by
  intro s w hw hr hp hrsp
  refine ⟨fun hy => ?_, fun hy => step_resp_waits hw hr hp hy⟩
  rw [step_takes hw hr hp hy, State.takeResponse, hrsp]
  rfl

/-- Settles O48: no command's run is refused. -/
theorem onlyIllFormedConfigurationsAreRefused : Obligations.OnlyIllFormedConfigurationsAreRefused := by
  refine fun s => ⟨step_illFormed, fun r h => ?_⟩
  cases hw : s.cfg.wellFormed with
  | false => rw [step_illFormed hw] at h; cases h; exact ⟨rfl, rfl⟩
  | true =>
    exfalso
    cases hr : s.rstIn with
    | true => simp [step_resets hw hr] at h
    | false =>
      by_cases hi : s.phase = .idle
      · cases hc : s.cmdIn with
        | nil => simp [step_idle_waits hw hr hi hc] at h
        | cons w ws => exact runCommand_ne_refused (step_accepts hw hr hi hc ▸ h)
      by_cases hp : s.phase = .resp
      · cases hy : s.rspReady with
        | true => simp [step_takes hw hr hp hy] at h
        | false => simp [step_resp_waits hw hr hp hy] at h
      · exact runCommand_ne_refused (step_runs hw hr hi hp ▸ h)

/-! ## Waiting and resuming -/

/-- The state once the transport has given `more`, after the answers it already gave. -/
def State.given (more : List TRsp) (s : State) : State := { s with trspIn := s.trspIn ++ more }

theorem State.given_answers {a : TRsp} {rest : List TRsp} (more : List TRsp) (h : s.answers = a :: rest) :
    (s.given more).answers = a :: (rest ++ more) := by
  have hle := State.abandoned_le_of_answers (s := s) (by simp [h])
  exact (State.answersAfter_of_le s more hle).trans (by rw [h]; rfl)

/-- Answers that come later do not change a move. -/
theorem Shape.Move.given (h : sh.Move s u) (more : List TRsp) : sh.Move (s.given more) (u.given more) := by
  cases h with
  | respond hs hp => exact .respond (s := s.given more) hs hp
  | reject hs hp => exact .reject (s := s.given more) hs hp
  | start hp hn hq => exact .start (s := s.given more) hp hn hq
  | fail hp ha => exact .fail (s := s.given more) hp (State.given_answers more ha)
  | goOn hp ha hn hq => exact .goOn (s := s.given more) hp (State.given_answers more ha) hn hq
  | finish hp ha hn => exact .finish (s := s.given more) hp (State.given_answers more ha) hn

/-- From a waiting state that moves lead to, a command runs as from where the moves began. -/
theorem Shape.Moves.run_eq (h : sh.Moves s t) (ht : t.phase ≠ .resp) : sh.run s = sh.run t := by
  induction h with
  | refl => rfl
  | @tail u t _ hm ih =>
    have hu : u.phase ≠ .resp := fun h => absurd (h ▸ hm.toGo_lt) (Nat.not_lt_zero _)
    rw [ih hu, hm.run_eq, if_neg ht]

theorem Shape.Moves.given (h : sh.Moves s t) (more : List TRsp) : sh.Moves (s.given more) (t.given more) := by
  induction h with
  | refl => exact .refl
  | tail _ hm ih => exact ih.tail (hm.given more)

/-- Settles O42: the moves that led to the waiting state are moves also with the later answers at hand. -/
theorem waitingThenResumingIsRunningThrough : Obligations.WaitingThenResumingIsRunningThrough := by
  constructor
  · intro s hp hr hc
    obtain ⟨w, ws, hc⟩ := List.exists_cons_of_ne_nil hc
    have hacc : s.input .acceptAlone = s.accept w ws := by simp [State.input, State.acceptAlone, hp, hc, hr]
    rw [hacc]
    refine ⟨rfl, ?_⟩
    cases hw : s.cfg.wellFormed with
    | false => rw [step_illFormed hw, step_illFormed (s := s.accept w ws) hw]
    | true => rw [step_accepts hw hr hp hc, step_runs (s := s.accept w ws) hw hr (by simp) (by simp)]
  · intro i s t more _ h hwait
    have hm := Shape.run_next ((exec_eq_run i s).symm.trans h)
    have ht : t.phase ≠ .resp := by rcases hwait with h | h | h <;> simp [h]
    have hcfg : (t.given more).cfg = (s.given more).cfg := hm.fixed.1
    change exec i (t.given more) = exec i (s.given more)
    rw [exec_eq_run, exec_eq_run, hcfg]
    exact ((hm.given more).run_eq ht).symm

end Sys2Proof.Machine

/-! ## Nothing is kept between commands -/

namespace Sys2Proof.Machine

variable {sh : Shape} {s t u : State} {g : Config} {i : Instr} {x : ErrorKind} {w : Word} {k : Nat}

/-- A state with other values in the latches a command reads only after it has written them (R20). -/
def State.setLatches (l v e : Byte) (s : State) : State := { s with lat := l, vlat := v, einfo := e }

theorem sameBut_setLatches (s : State) (l v e : Byte) : SameBut s (s.setLatches l v e) := ⟨rfl, .inr (.inr rfl)⟩

/-- The kinds that validation raises carry no latch (R212). -/
theorem payload_of_validation (h : validation g i = some x) (e v : Byte) : x.payload e v = 0 := by
  have hx : x = .outOfRange ∨ x = .invalidFieldValue := by
    cases i <;> simp [validation] at h <;> simp [← h.2]
  rcases hx with rfl | rfl <;> rfl

/-- No command that is turned away reports a latch (R92, R212). -/
theorem State.payload_of_reject (h : s.shape = .reject x) (e v : Byte) : x.payload e v = 0 := by
  cases hd : decode s.cmd with
  | none => rw [State.shape_of_illegal hd] at h; cases h; rfl
  | some i =>
    rw [State.shape_of_decode hd] at h
    have hv := shapeOf_validation s.cfg i
    cases hk : validation s.cfg i with
    | none => simp only [hk] at hv; exact absurd h (hv.2 x)
    | some y =>
      simp only [hk] at hv
      cases hv.symm.trans h
      exact payload_of_validation hk e v

/-- The same move is possible whatever the latches hold, and leads to states that differ in the latches only. -/
theorem Shape.Move.setLatches (hx : ∀ x, sh = .reject x → ∀ e v, x.payload e v = 0) (h : sh.Move s u) (l v e : Byte) :
    ∃ l' v' e', sh.Move (s.setLatches l v e) (u.setLatches l' v' e') := by
  cases h with
  | respond hs hp => exact ⟨l, v, e, .respond (s := s.setLatches l v e) hs hp⟩
  | @reject x hs hp =>
    have hsame : (s.raise x).setLatches l v e = (s.setLatches l v e).raise x := by
      simp only [State.raise, hx x hs]
      rfl
    exact ⟨l, v, e, hsame ▸ .reject hs hp⟩
  | start hp hn hq =>
    rw [Shape.request_congr_lat hn (by simp) s.lat l] at hq
    exact ⟨l, v, e, .start (s := s.setLatches l v e) hp hn hq⟩
  | fail hp ha => exact ⟨l, v, _, .fail (s := s.setLatches l v e) hp ha⟩
  | @goOn b rest ph q hp ha hn hq =>
    have hq' : sh.request s.cfg ((s.setLatches l v e).took b rest).lat ph = some q := by
      by_cases hrd : s.phase = .rd
      · simpa [State.took, State.setLatches, hrd] using hq
      · rwa [Shape.request_congr_lat hn hrd _ (s.took b rest).lat]
    exact ⟨_, _, e, .goOn (s := s.setLatches l v e) hp ha hn hq'⟩
  | finish hp ha hn => exact ⟨_, _, e, .finish (s := s.setLatches l v e) hp ha hn⟩

/-- A command's outcome does not depend on what the latches hold when it runs. -/
theorem Shape.run_setLatches {s : State} (hx : ∀ x, sh = .reject x → ∀ e v, x.payload e v = 0) (l v e : Byte) :
    OutcomeSameBut (sh.run s) (sh.run (s.setLatches l v e)) := by
  by_cases hp : s.phase = .exec ∨ s.phase ∈ sh.waits
  · by_cases hw : s.phase ∈ sh.waits ∧ s.answers = []
    · rw [Shape.run_waits hw.1 hw.2, Shape.run_waits (s := s.setLatches l v e) hw.1 hw.2]
      exact sameBut_setLatches s l v e
    · obtain ⟨u, hu⟩ := Shape.exists_move hp fun h ha => hw ⟨h, ha⟩
      have hlt := hu.toGo_lt
      obtain ⟨l', v', e', hu'⟩ := hu.setLatches hx l v e
      have hphase : (u.setLatches l' v' e').phase = u.phase := rfl
      rw [hu.run_eq, hu'.run_eq, hphase]
      split
      · exact sameBut_setLatches u l' v' e'
      · exact Shape.run_setLatches hx l' v' e'
  · rw [not_or] at hp
    rw [Shape.run_fault hp.1 hp.2, Shape.run_fault (s := s.setLatches l v e) hp.1 hp.2]
    rfl
termination_by s.phase.toGo

/-- States that agree in all but the latches, and in CMD, run their command alike. -/
theorem runCommand_sameBut (h : s.hideLatches = t.hideLatches) (hc : s.cmd = t.cmd) :
    OutcomeSameBut (runCommand s) (runCommand t) := by
  have ht : t = s.setLatches t.lat t.vlat t.einfo := by
    cases s; cases t
    simp_all [State.hideLatches, State.setLatches]
  rw [ht, runCommand_eq_run, runCommand_eq_run]
  exact Shape.run_setLatches (fun _ hs => State.payload_of_reject hs) _ _ _

/-- A step of states that agree in all but the unread latches has outcomes that do. -/
theorem step_sameBut (h : SameBut s t) : OutcomeSameBut (step s) (step t) := by
  obtain ⟨hh, hc⟩ := h
  have hcfg : s.cfg = t.cfg := (congrArg State.cfg hh :)
  have hrst : s.rstIn = t.rstIn := (congrArg State.rstIn hh :)
  have hphase : s.phase = t.phase := (congrArg State.phase hh :)
  cases hw : s.cfg.wellFormed with
  | false => rw [step_illFormed hw, step_illFormed (hcfg ▸ hw)]; rfl
  | true =>
    have hw' : t.cfg.wellFormed = true := hcfg ▸ hw
    cases hr : s.rstIn with
    | true =>
      rw [step_resets hw hr, step_resets hw' (hrst ▸ hr)]
      have heq : s.applyReset = t.applyReset := (congrArg State.applyReset hh :)
      exact ⟨congrArg State.hideLatches heq, .inl rfl⟩
    | false =>
      have hr' : t.rstIn = false := hrst ▸ hr
      by_cases hi : s.phase = .idle
      · have hi' : t.phase = .idle := hphase ▸ hi
        have hin : s.cmdIn = t.cmdIn := (congrArg State.cmdIn hh :)
        cases hcs : s.cmdIn with
        | nil =>
          rw [step_idle_waits hw hr hi hcs, step_idle_waits hw' hr' hi' (hin ▸ hcs)]
          exact ⟨hh, hc⟩
        | cons w ws =>
          rw [step_accepts hw hr hi hcs, step_accepts hw' hr' hi' (hin ▸ hcs)]
          exact runCommand_sameBut (congrArg (fun u => (u.accept w ws).hideLatches) hh) rfl
      by_cases hp : s.phase = .resp
      · have hp' : t.phase = .resp := hphase ▸ hp
        have hready : s.rspReady = t.rspReady := (congrArg State.rspReady hh :)
        cases hy : s.rspReady with
        | true =>
          rw [step_takes hw hr hp hy, step_takes hw' hr' hp' (hready ▸ hy)]
          exact ⟨(congrArg State.takeResponse hh :), .inl rfl⟩
        | false =>
          rw [step_resp_waits hw hr hp hy, step_resp_waits hw' hr' hp' (hready ▸ hy)]
          exact ⟨hh, hc⟩
      · rw [step_runs hw hr hi hp, step_runs hw' hr' (hphase ▸ hi) (hphase ▸ hp)]
        exact runCommand_sameBut hh ((hc.resolve_left hi).resolve_left hp)

/-! ### Runs -/

theorem core_run_next (h : step s = .next u) : Sys2Proof.core.run (k + 1) s = Sys2Proof.core.run k u := by
  have h' : Sys2Proof.core.step s = .next u := h
  simp only [Host.Core.run, h']

theorem core_run_fault {r : Fault} (h : step s = .fault r) : Sys2Proof.core.run (k + 1) s = .fault r := by
  have h' : Sys2Proof.core.step s = .fault r := h
  simp only [Host.Core.run, h']

theorem core_run_refused {r : Refusal} (h : step s = .refused r) : Sys2Proof.core.run (k + 1) s = .refused r := by
  have h' : Sys2Proof.core.step s = .refused r := h
  simp only [Host.Core.run, h']

/-- Settles O55: by induction on the number of steps, each keeping the agreement. -/
theorem nothingIsKeptBetweenCommands : Obligations.NothingIsKeptBetweenCommands := by
  intro k
  induction k with
  | zero => exact fun s t h => h
  | succ k ih =>
    intro s t h
    have hstep := step_sameBut h
    cases hs : step s <;> cases ht : step t <;> rw [hs, ht] at hstep
    case next.next => rw [core_run_next hs, core_run_next ht]; exact ih _ _ hstep
    case fault.fault => rw [core_run_fault hs, core_run_fault ht]; exact hstep
    case refused.refused => rw [core_run_refused hs, core_run_refused ht]; exact hstep
    all_goals exact hstep.elim

end Sys2Proof.Machine

/-! ## The scaler's table and the charge status -/

namespace Sys2Proof.Machine

variable {g : Config}

/-- Settles O6. -/
theorem fieldDescriptorTable : Obligations.FieldDescriptorTable := by
  intro g
  refine ⟨rfl, rfl, rfl, rfl, ⟨?_, ?_⟩, ⟨?_, ?_⟩, ⟨?_, ?_⟩, ?_, ?_⟩ <;>
    rw [encodeScaled_in_range (by simp [fieldDesc])] <;> simp [fieldDesc]

/-- Settles O7: the range check leaves quotients of at most 255 (`scale_in_range`). -/
theorem saturationNeverChangesAValue : Obligations.SaturationNeverChangesAValue := by
  refine ⟨fieldDesc_wellFormed, fun d p hw hr => ?_⟩
  have hp := (inRange_iff d p).1 hr
  obtain ⟨-, hoff, -⟩ := fieldDesc_bounds hw
  obtain ⟨hle, hscale⟩ := scale_in_range hw hp
  rw [hscale, fdiv_sub_nat _ _ _ (by omega), BitVec.toNat_ofNat, Nat.mod_eq_of_lt (by omega)]
  exact ⟨Int.natCast_nonneg _, Int.ofNat_le.2 hle, rfl⟩

theorem and_of_confined {v m : Byte} (h : confined v m = true) : v &&& m = v := by
  simpa [replaceField] using (replaceField_bits 0 h).1

/-- What R36 asks of CS_MASK and CS_CC_PAT. -/
theorem chargeStatus_wellFormed (h : g.wellFormed = true) :
    0x04 &&& g.csMask = 0x04 ∧ g.csCcPat &&& g.csMask = g.csCcPat ∧ g.csCcPat ≠ 0x00 ∧ g.csCcPat ≠ 0x04 := by
  simp only [Config.wellFormed, Config.chargeStatusWellFormed, Bool.and_eq_true, beq_iff_eq, bne_iff_ne] at h
  obtain ⟨⟨-, ⟨⟨⟨-, hcv⟩, hcc⟩, h0⟩, h4⟩, -⟩ := h
  exact ⟨by rw [BitVec.and_comm, hcv], and_of_confined (beq_iff_eq.2 hcc), h0, h4⟩

theorem stateCode_chgStat (g : Config) (raw : Byte) :
    stateCode (stateTable g .chgStat) raw =
      if raw &&& g.csMask = g.csCcPat then 1 else if raw &&& g.csMask = 0x04 then 2 else 0 := by
  simp only [stateCode, stateTable, firstMatch, csCvPat]
  by_cases hcc : raw &&& g.csMask = g.csCcPat
  · simp [hcc]
  · by_cases hcv : raw &&& g.csMask = 0x04
    · simp only [if_neg hcc, if_pos hcv]
      rfl
    · simp only [if_neg hcc, if_neg hcv]
      rfl

theorem exec_dms {s : State} (t : TableId) (raw : Byte) (hp : s.phase = .exec) :
    exec (.dms t raw) s = .next (s.respond (stateCode (stateTable s.cfg t) raw)) :=
  pureCommand_exec hp

/-- Settles O25: R36 makes the three patterns differ and keeps CS_CC_PAT within CS_MASK. -/
theorem chargeStatusHasThreeResults : Obligations.ChargeStatusHasThreeResults := by
  intro s hp hw
  obtain ⟨hcv, hcc, h0, h4⟩ := chargeStatus_wellFormed hw
  have hcode (raw : Byte) (n : Phys) (h : stateCode (stateTable s.cfg .chgStat) raw = n) :
      exec (.dms .chgStat raw) s = .next { s with phase := .resp, rsp := some (responseWord .ok n) } := by
    rw [exec_dms _ _ hp, h]
    rfl
  refine ⟨fun raw => hcode raw _ (stateCode_chgStat _ _), hcode _ _ ?_, hcode _ _ ?_, hcode _ _ ?_, rfl, rfl, rfl⟩ <;>
    rw [stateCode_chgStat]
  · rw [hcv, if_neg (Ne.symm h4), if_pos rfl]
  · rw [show (0 : Byte) &&& s.cfg.csMask = 0 from BitVec.zero_and, if_neg (Ne.symm h0), if_neg (by decide)]
  · rw [hcc, if_pos rfl]

end Sys2Proof.Machine

/-! ## The transactions of a command

R56: started in EXEC with answers at hand, a shape makes its transactions in order, up to the first that fails. -/

namespace Sys2Proof.Machine

variable {sh : Shape} {s t u : State} {g : Config} {p ph : Phase} {q : TReq} {a : TRsp} {e : Byte} {n : Nat}
  {oks rest : List TRsp}

/-- Settles O52: each move of R26's table leads from a history of the protocol to a history of the protocol. -/
theorem everyStepKeepsThePortProtocol : Obligations.EveryStepKeepsThePortProtocol :=
  fun _ hs hf => ⟨fun _ h => (step_next h).historyFits hs.2 hf, hf.input⟩

/-- In a waiting phase of a safe state the step runs the shape in CMD, which has a request there. -/
theorem Safe.step_waiting (hs : Safe s) (hr : s.rstIn = false) (hp : s.phase = .rd ∨ s.phase = .wr ∨ s.phase = .vrd) :
    s.phase ∈ s.shape.waits ∧ step s = s.shape.run s := by
  have hi : s.phase ≠ .idle := by rcases hp with h | h | h <;> simp [h]
  have hm := hs.2.mem_waits hp
  exact ⟨hm, by rw [step_runs hs.1 hr hi (Shape.ne_resp_of_waits hm), runCommand_eq_run]⟩

/-- Settles O36: each waiting phase of a shape ends on `Err` (`Shape.run_fails`). -/
theorem transportErrorEndsTheCommandAtOnce : Obligations.TransportErrorEndsTheCommandAtOnce := by
  intro s e rest hs hr hp ha
  obtain ⟨hm, hstep⟩ := hs.step_waiting hr hp
  rw [hstep, Shape.run_fails hm ha]
  rfl

/-- Settles O43: each waiting phase of a shape waits for its answer (`Shape.run_waits`). -/
theorem noAnswerMeansNoProgress : Obligations.NoAnswerMeansNoProgress := by
  intro s hs hr hp ha
  obtain ⟨hm, hstep⟩ := hs.step_waiting hr hp
  rw [hstep, Shape.run_waits hm ha]

/-! ### A shape's transactions in its history -/

theorem Shape.transactions_length (sh : Shape) : sh.transactions.length = sh.waits.length := by cases sh <;> rfl

/-- The request of the phase after `p` is of the kind the table of R56 lists there. -/
theorem Shape.request_kind {lat : Byte} (hn : sh.nextPhase p = some ph) (hq : sh.request g lat ph = some q) :
    sh.transactions[sh.position p]? = some q.kind := by
  cases sh <;> cases p <;> simp [Shape.nextPhase, Shape.position, Shape.waits] at hn <;> subst hn <;>
    simp [Shape.request, readRequest, writeRequest, rmwRequest, verifyRequest] at hq <;> subst hq <;> rfl

/-- Before its last waiting phase a shape has a next one, with a request. -/
theorem Shape.exists_request (g : Config) (lat : Byte) (h : sh.position p < sh.waits.length) :
    ∃ ph q, sh.nextPhase p = some ph ∧ sh.request g lat ph = some q := by
  have hn : sh.nextPhase p = some sh.waits[sh.position p] := List.getElem?_eq_getElem h
  obtain ⟨q, hq⟩ := (Shape.mem_waits_iff g lat).1 (Shape.mem_waits_of_nextPhase hn)
  exact ⟨_, q, hn, hq⟩

/-- From `s` to `t` the history is extended by requests and answers only, and the requests are of the first `n` kinds of
the shape's transactions (R53, R56). -/
def Shape.Transacts (sh : Shape) (n : Nat) (s t : State) : Prop :=
  ∃ evs, t.trace = s.trace ++ evs ∧ (∀ e ∈ evs, (∃ q, e = .treq q) ∨ ∃ a, e = .trsp a) ∧
    (requestsOf evs).map TReq.kind = sh.transactions.take n

theorem Shape.Transacts.zero (h : t.trace = s.trace) : sh.Transacts 0 s t := ⟨[], by simp [h], by simp, rfl⟩

theorem Shape.Transacts.answer (h : sh.Transacts n s t) (hu : u.trace = t.trace ++ [.trsp a]) :
    sh.Transacts n s u := by
  obtain ⟨evs, ht, hev, hk⟩ := h
  refine ⟨evs ++ [.trsp a], by rw [hu, ht, List.append_assoc], ?_, ?_⟩
  · simpa [or_imp, forall_and] using hev
  · simpa [requestsOf_append, requestsOf] using hk

theorem Shape.Transacts.issue (h : sh.Transacts n s t) (hq : sh.transactions[n]? = some q.kind) (ph : Phase) :
    sh.Transacts (n + 1) s (t.issue q ph) := by
  obtain ⟨evs, ht, hev, hk⟩ := h
  refine ⟨evs ++ [.treq q], by simp [ht], ?_, ?_⟩
  · simpa [or_imp, forall_and] using hev
  · simp [requestsOf_append, requestsOf, hk, List.take_add_one, hq]

/-! ### A shape that is answered -/

/-- From EXEC, fewer `ok` answers than the shape has transactions lead to the transaction after them. -/
theorem Shape.moves_of_oks (hp : s.phase = .exec) (hok : ∀ a ∈ oks, ∃ b, a = TRsp.ok b)
    (hlen : oks.length < sh.waits.length) (ha : s.answers = oks ++ rest) :
    ∃ t, sh.Moves s t ∧ t.phase ∈ sh.waits ∧ sh.position t.phase = oks.length + 1 ∧ t.answers = rest ∧
      sh.Transacts (oks.length + 1) s t := by
  induction oks using List.reverseRecOn generalizing rest with
  | nil =>
    have hpos := sh.position_exec
    obtain ⟨ph, q, hn, hq⟩ := Shape.exists_request s.cfg s.lat (hpos.trans_lt hlen)
    have hk := hpos ▸ Shape.request_kind hn hq
    exact ⟨_, .single (.start hp hn hq), Shape.mem_waits_of_nextPhase hn,
      (Shape.position_nextPhase hn).trans (congrArg (· + 1) hpos), ha, (Shape.Transacts.zero rfl).issue hk ph⟩
  | append_singleton oks x ih =>
    obtain ⟨b, rfl⟩ := hok x (by simp)
    rw [List.length_append, List.length_singleton] at hlen ⊢
    obtain ⟨t, hm, hw, hpos, hans, htr⟩ := ih (rest := .ok b :: rest) (fun a h => hok a (by simp [h])) (by omega)
      (by simp [ha])
    obtain ⟨ph, q, hn, hq⟩ := Shape.exists_request t.cfg (t.took b rest).lat (hpos.trans_lt hlen)
    have hk := hpos ▸ Shape.request_kind hn hq
    exact ⟨_, hm.tail (.goOn hw hans hn hq), Shape.mem_waits_of_nextPhase hn,
      (Shape.position_nextPhase hn).trans (congrArg (· + 1) hpos), rfl,
      (htr.answer (u := t.took b rest) rfl).issue hk ph⟩

/-- Run from `s`, the shape ends in `t` after its first `n` transactions, with the answers `rest` left. -/
def Shape.Ends (sh : Shape) (n : Nat) (rest : List TRsp) (s t : State) : Prop :=
  sh.run s = .next t ∧ t.phase = .resp ∧ t.answers = rest ∧ sh.Transacts n s t

/-- When a transaction answers `err`, it is the last. -/
theorem Shape.ends_of_err (hp : s.phase = .exec) (hok : ∀ a ∈ oks, ∃ b, a = TRsp.ok b)
    (hlen : oks.length < sh.transactions.length) (ha : s.answers = oks ++ .err e :: rest) :
    ∃ t, sh.Ends (oks.length + 1) rest s t ∧ t.rsp = some (transportErrorWord e) := by
  obtain ⟨t, hm, hw, -, hans, htr⟩ := Shape.moves_of_oks hp hok (sh.transactions_length ▸ hlen) ha
  have hrun := hm.run_eq (Shape.ne_resp_of_waits hw)
  exact ⟨_, ⟨hrun.trans (Shape.run_fails hw hans), rfl, rfl, htr.answer (a := .err e) rfl⟩, rfl⟩

theorem Shape.ends_of_no_transaction (hp : s.phase = .exec) (htr : sh.transactions = []) :
    ∃ t, sh.Ends 0 s.answers s t := by
  have hw : sh.waits = [] := List.length_eq_zero_iff.1 (by rw [← sh.transactions_length, htr]; rfl)
  obtain ⟨t, ht⟩ := Shape.exists_move (sh := sh) (.inl hp) (by simp [hw])
  have hresp : t.phase = .resp := ht.phase_mem.resolve_right (by simp [hw])
  obtain ⟨-, -, -, -, hin, hab, htrace⟩ := Shape.Moves.of_no_transaction (.single ht) htr
  exact ⟨t, by rw [ht.run_eq, if_pos hresp], hresp, by rw [State.answers, hin, hab]; rfl, .zero htrace⟩

/-- When all transactions answer `ok`, all are made. -/
theorem Shape.ends_of_oks (hp : s.phase = .exec) (hok : ∀ a ∈ oks, ∃ b, a = TRsp.ok b)
    (hlen : oks.length = sh.transactions.length) (ha : s.answers = oks ++ rest) : ∃ t, sh.Ends oks.length rest s t := by
  obtain rfl | ⟨oks, x, rfl⟩ := List.eq_nil_or_concat' oks
  · exact (show s.answers = rest from ha) ▸ Shape.ends_of_no_transaction hp (List.length_eq_zero_iff.1 hlen.symm)
  · obtain ⟨b, rfl⟩ := hok x (by simp)
    rw [List.length_append, List.length_singleton, sh.transactions_length] at hlen
    obtain ⟨t, hm, hw, hpos, hans, htr⟩ := Shape.moves_of_oks (sh := sh) (oks := oks) (rest := .ok b :: rest)
      hp (fun a h => hok a (by simp [h])) (by omega) (by simp [ha])
    have hlast : sh.nextPhase t.phase = none := List.getElem?_eq_none (by omega)
    have hrun := hm.run_eq (Shape.ne_resp_of_waits hw)
    refine ⟨_, hrun.trans (Shape.run_finishes hw hans hlast), rfl, rfl, ?_⟩
    rw [List.length_append, List.length_singleton]
    exact htr.answer (a := .ok b) rfl

/-! ### The table of R56 -/

/-- A shape that is turned away makes no transaction. -/
theorem reject_makes_no_transaction {x : ErrorKind} (hp : s.phase = .exec) (h : (Shape.reject x).run s = .next t) :
    t.trace = s.trace ∧ t.treq = s.treq := by
  cases (rejectCommand_exec hp).symm.trans h
  exact ⟨rfl, rfl⟩

/-- Settles O37: the shape of a command that passes validation has the command's transactions, and a command that is
turned away is the shape that has none. -/
theorem transactionsAreThoseOfTheTable : Obligations.TransactionsAreThoseOfTheTable := by
  refine ⟨fun i s hp hv => ?_, fun i s t k hp hv h => ?_, fun s t hp h => reject_makes_no_transaction hp h⟩
  · have hsh := shapeOf_validation s.cfg i
    simp only [hv] at hsh
    rw [exec_eq_run, ← hsh.1]
    refine ⟨fun oks rest hlen hok ha => ?_, fun oks e rest hlen hok ha => ?_⟩
    · obtain ⟨t, hrun, hresp, hans, evs, htrace, -, hk⟩ := Shape.ends_of_oks hp hok hlen ha
      rw [hlen, List.take_length] at hk
      exact ⟨t, evs, hrun, hresp, htrace, hans, hk⟩
    · obtain ⟨t, ⟨hrun, hresp, hans, evs, htrace, -, hk⟩, hrsp⟩ := Shape.ends_of_err hp hok hlen ha
      exact ⟨t, evs, hrun, hresp, hrsp, htrace, hans, hk⟩
  · have hsh := shapeOf_validation s.cfg i
    simp only [hv] at hsh
    rw [exec_eq_run, hsh] at h
    exact reject_makes_no_transaction hp h

/-! ### One response for each command -/

/-- Of `n` answers, either all are `ok`, or there is a first `err`. -/
theorem oks_or_first_err (n : Nat) (as : List TRsp) (h : n ≤ as.length) :
    (∃ oks rest, oks.length = n ∧ (∀ a ∈ oks, ∃ b, a = TRsp.ok b) ∧ as = oks ++ rest) ∨
    (∃ oks e rest, oks.length < n ∧ (∀ a ∈ oks, ∃ b, a = TRsp.ok b) ∧ as = oks ++ .err e :: rest) := by
  induction n generalizing as with
  | zero => exact .inl ⟨[], as, rfl, by simp, rfl⟩
  | succ n ih =>
    match as, h with
    | .err e :: rest, _ => exact .inr ⟨[], e, rest, by simp, by simp, rfl⟩
    | .ok b :: as, h =>
      obtain ⟨oks, rest, hlen, hok, rfl⟩ | ⟨oks, e, rest, hlen, hok, rfl⟩ := ih as (Nat.le_of_succ_le_succ h)
      · exact .inl ⟨.ok b :: oks, rest, by simp [hlen], by simpa using hok, rfl⟩
      · exact .inr ⟨.ok b :: oks, e, rest, by simpa using hlen, by simpa using hok, rfl⟩

theorem Shape.transactions_length_le (sh : Shape) : sh.transactions.length ≤ maxTransactions := by
  cases sh <;> simp [Shape.transactions, maxTransactions]

/-- From EXEC, with an answer at hand for each of its transactions, a shape ends. -/
theorem Shape.ends_of_answered (hp : s.phase = .exec) (ha : sh.transactions.length ≤ s.answers.length) :
    ∃ n rest t, sh.Ends n rest s t := by
  obtain ⟨oks, rest, hlen, hok, h⟩ | ⟨oks, e, rest, hlen, hok, h⟩ := oks_or_first_err _ _ ha
  · exact ⟨_, _, Shape.ends_of_oks hp hok hlen h⟩
  · obtain ⟨t, ht, -⟩ := Shape.ends_of_err hp hok hlen h
    exact ⟨_, _, t, ht⟩

/-- Settles O54: the accepted command's shape has at most three transactions, so it ends, in a coherent state. -/
theorem everyAnsweredCommandGetsOneResponse : Obligations.EveryAnsweredCommandGetsOneResponse := by
  intro s w ws hs hp hr hc hy ha
  have hlen := (s.accept w ws).shape.transactions_length_le
  obtain ⟨n, rest, t, hrun, hresp, -, evs, htrace, hev, hk⟩ :=
    Shape.ends_of_answered (s := s.accept w ws) rfl (hlen.trans ha)
  have hm := Shape.run_next hrun
  obtain ⟨hcfg, -, hcmdIn, hready, hrst, -⟩ := hm.fixed
  have hcoh : Coherent t := hm.invariant (fun _ _ h => h.coherent) (hs.2.accept hp w ws)
  obtain ⟨-, st, x, hrsp⟩ := (coherent_of_resp hresp).1 hcoh
  have hreq : (requestsOf evs).length ≤ 3 := by
    have hcount := congrArg List.length hk
    rw [List.length_map, List.length_take] at hcount
    exact hcount.trans_le ((Nat.min_le_right _ _).trans hlen)
  refine ⟨t, t.takeResponse, responseWord st x, evs, ?_, hresp, hrsp, ?_, rfl, hcmdIn, ?_, hev, hreq⟩
  · rw [step_accepts hs.1 hr hp hc, runCommand_eq_run, hrun]
  · exact step_takes (hcfg ▸ hs.1) (hrst.trans hr) hresp (hready.trans hy)
  · rw [State.takeResponse_trace, hrsp, htrace]
    simp

end Sys2Proof.Machine

/-! ## Words and commands

R80 to R85, R92, R95. A word is legal exactly when its fields are some command's, and then it decodes to that command:
`RawCmd.wellFormed_iff` and `decode_eq_some_iff`, from which the statements about the encoding follow. -/

namespace Sys2Proof

variable {row row' : OpcodeRow} {r : RawCmd} {w : Word} {i : Instr}

/-! ### The rows of the opcode table -/

/-- Two rows that disagree on a bit both compare have no word in common. -/
theorem OpcodeRow.not_accepts_both (h : row.pattern &&& row'.mask ≠ row'.pattern &&& row.mask) (w : Word) :
    ¬ (row.accepts w = true ∧ row'.accepts w = true) := by
  simp only [OpcodeRow.accepts, beq_iff_eq]
  rintro ⟨hrow, hrow'⟩
  apply h
  rw [← hrow, ← hrow', BitVec.and_assoc, BitVec.and_assoc, BitVec.and_comm row.mask]

/-- No word meets two rows (R84). -/
theorem opcodeRows_disjoint :
    opcodeRows.Pairwise (fun x y => ∀ w, ¬ (x.accepts w = true ∧ y.accepts w = true)) := by
  have hbits : opcodeRows.Pairwise (fun x y => x.pattern &&& y.mask ≠ y.pattern &&& x.mask) := by decide
  exact hbits.imp OpcodeRow.not_accepts_both

theorem OpcodeRow.eq_of_accepts (hr : row ∈ opcodeRows) (hr' : row' ∈ opcodeRows) (h : row.accepts w = true)
    (h' : row'.accepts w = true) : row = row' := by
  have hsymm : Std.Symm (fun x y : OpcodeRow => ∀ w, ¬ (x.accepts w = true ∧ y.accepts w = true)) :=
    ⟨fun _ _ hxy w hyx => hxy w hyx.symm⟩
  by_contra hne
  exact opcodeRows_disjoint.forall hr hr' hne w ⟨h, h'⟩

/-- The row a word meets is the one the decoder finds. -/
theorem find?_of_accepts (hr : row ∈ opcodeRows) (h : row.accepts w = true) :
    opcodeRows.find? (·.accepts w) = some row := by
  obtain ⟨row', hfind⟩ := Option.isSome_iff_exists.1 (List.find?_isSome (p := (·.accepts w)).2 ⟨row, hr, h⟩)
  have h' : row'.accepts w = true := by simpa using List.find?_some hfind
  rw [hfind, OpcodeRow.eq_of_accepts (List.mem_of_find?_eq_some hfind) hr h' h]

theorem decode_of_accepts (hr : row ∈ opcodeRows) (h : row.accepts w = true) :
    decode w = row.build (RawCmd.ofWord w) := by
  simp [decode, find?_of_accepts hr h]

/-! ### The row of a command -/

/-- Where a command's row stands in the opcode table (R84). -/
def Instr.rowIndex : Instr → Nat
  | .enc _ _ => 0 | .dec _ _ => 1 | .rdb _ => 2 | .wrb _ _ => 3 | .rmo _ _ => 4 | .rmc _ _ => 5 | .wbf _ _ _ => 6
  | .rmov _ _ => 7 | .dfl .intMask _ => 9 | .dfl .fltMask _ => 9 | .dfl _ _ => 8 | .dms _ _ => 10
  | .setVbat _ => 11 | .setIchg _ => 12 | .setVindpm _ => 13 | .setIindpm _ => 14
  | .chgEn => 15 | .chgDis => 16 | .wdDis => 17 | .regRst => 18
  | .getChgStat => 19 | .getIntStat => 20 | .getFltStat => 21 | .getIntFlag => 22 | .getFltFlag => 23

/-- The row at `rowIndex` accepts the command's word and reads the command back from its fields. -/
theorem Instr.row_spec (i : Instr) : ∃ row, opcodeRows[i.rowIndex]? = some row ∧
    row.accepts i.fields.toWord = true ∧ row.build i.fields = some i := by
  cases i with
  | enc f _ | dec f _ =>
    cases f <;> refine ⟨_, rfl, ?_, ?_⟩ <;>
      simp [OpcodeRow.accepts_toWord, RawCmd.ofWord, Instr.fields, Instr.op, ScaledField.sel, ScaledField.ofSel?,
        RawCmd.phys]
  | dfl k _ =>
    cases k <;> refine ⟨_, rfl, ?_, ?_⟩ <;>
      simp [OpcodeRow.accepts_toWord, RawCmd.ofWord, Instr.fields, Instr.op, FlagSet.sel, FlagSet.ofSel?]
  | dms t _ =>
    cases t <;> refine ⟨_, rfl, ?_, ?_⟩ <;>
      simp [OpcodeRow.accepts_toWord, RawCmd.ofWord, Instr.fields, Instr.op, TableId.sel, TableId.ofSel?]
  | _ =>
    refine ⟨_, rfl, ?_, ?_⟩ <;>
      simp [OpcodeRow.accepts_toWord, RawCmd.ofWord, Instr.fields, Instr.op, RawCmd.phys]

@[simp] theorem decode_encode (i : Instr) : decode (encode i) = some i := by
  obtain ⟨row, hrow, hacc, hbuild⟩ := i.row_spec
  rw [encode, decode_of_accepts (List.mem_of_getElem? hrow) hacc, RawCmd.ofWord_toWord, hbuild]

/-- Settles O1: the command's row (`Instr.row_spec`) accepts its word, so it is the row the decoder finds
(`decode_of_accepts`). -/
theorem decodeOfEncodeIsTheCommand : Obligations.DecodeOfEncodeIsTheCommand := decode_encode

/-! ### Legal words -/

/-- A word decodes to the command whose fields it has, and to no other. -/
theorem decode_eq_some_iff : decode w = some i ↔ i.fields = RawCmd.ofWord w := by
  constructor
  · intro h
    obtain ⟨row, hfind, hbuild⟩ := Option.bind_eq_some_iff.1 h
    have hacc : row.accepts (RawCmd.ofWord w).toWord = true := by simpa using List.find?_some hfind
    obtain ⟨j, hj, hfields⟩ := OpcodeRow.build_of_accepts (List.mem_of_find?_eq_some hfind) hacc
    rwa [Option.some.inj (hbuild.symm.trans hj)]
  · intro h
    rw [← decode_encode i, encode, h, RawCmd.toWord_ofWord]

/-- Settles O2: the fields of a word that decodes are its command's, and a word is its fields. -/
theorem encodeOfDecodeIsTheWord : Obligations.EncodeOfDecodeIsTheWord := by
  intro w i h
  rw [encode, decode_eq_some_iff.1 h, RawCmd.toWord_ofWord]

/-- Settles O4: a row that accepts a word builds a command from its fields (`OpcodeRow.build_of_accepts`). -/
theorem opcodeRowsAreDisjointAndDecide : Obligations.OpcodeRowsAreDisjointAndDecide := by
  refine ⟨rfl, opcodeRows_disjoint, fun row hr w h => ?_⟩
  obtain ⟨i, hi, -⟩ := OpcodeRow.build_of_accepts hr (r := RawCmd.ofWord w) (by simpa using h)
  exact ⟨i, hi, (decode_of_accepts hr h).trans hi⟩

theorem ScaledField.exists_sel {x : BitVec 3} (h : x.toNat ≤ 3) : ∃ f : ScaledField, f.sel = x := by
  have hx : x = 0 ∨ x = 1 ∨ x = 2 ∨ x = 3 := by revert x; decide
  rcases hx with rfl | rfl | rfl | rfl
  exacts [⟨.vbat, rfl⟩, ⟨.ichg, rfl⟩, ⟨.vindpm, rfl⟩, ⟨.iindpm, rfl⟩]

theorem FlagSet.exists_sel {x : BitVec 3} (h : x.toNat ≤ 5) : ∃ k : FlagSet, k.sel = x := by
  have hx : x = 0 ∨ x = 1 ∨ x = 2 ∨ x = 3 ∨ x = 4 ∨ x = 5 := by revert x; decide
  rcases hx with rfl | rfl | rfl | rfl | rfl | rfl
  exacts [⟨.intStat, rfl⟩, ⟨.fltStat, rfl⟩, ⟨.intFlag, rfl⟩, ⟨.fltFlag, rfl⟩, ⟨.intMask, rfl⟩, ⟨.fltMask, rfl⟩]

theorem TableId.exists_sel {x : BitVec 3} (h : x.toNat ≤ 1) : ∃ t : TableId, t.sel = x := by
  have hx : x = 0 ∨ x = 1 := by revert x; decide
  rcases hx with rfl | rfl
  exacts [⟨.chgStat, rfl⟩, ⟨.wdTimeout, rfl⟩]

/-- The operation codes of R84. -/
def assignedOps : List (BitVec 5) :=
  [0x01, 0x02, 0x03, 0x04, 0x05, 0x06, 0x07, 0x08, 0x09, 0x0A, 0x10, 0x11, 0x12, 0x13, 0x14, 0x18, 0x19,
   0x1A, 0x1B, 0x1C]

theorem RawCmd.op_mem_of_opAssigned (h : r.opAssigned = true) : r.op ∈ assignedOps := by
  have hcodes : ∀ op : BitVec 5, (RawCmd.mk op 0 0 0 0).opAssigned = true → op ∈ assignedOps := by decide
  exact hcodes r.op h

/-- Well-formed fields are a command's (R81, R83, R84): one command for each assigned operation code. -/
theorem RawCmd.exists_fields (h : r.wellFormed = true) : ∃ i : Instr, i.fields = r := by
  simp only [RawCmd.wellFormed, Bool.and_eq_true, and_assoc] at h
  obtain ⟨hop, hrest⟩ := h
  have hmem := RawCmd.op_mem_of_opAssigned hop
  obtain ⟨op, sel, a, b, c⟩ := r
  simp only [assignedOps, List.mem_cons, List.not_mem_nil, or_false] at hmem
  rcases hmem with rfl | rfl | rfl | rfl | rfl | rfl | rfl | rfl | rfl | rfl | rfl | rfl | rfl | rfl | rfl | rfl | rfl |
      rfl | rfl | rfl <;>
    simp [RawCmd.selInRange, RawCmd.unusedZero] at hrest
  · obtain ⟨f, rfl⟩ := ScaledField.exists_sel hrest.1
    exact ⟨.enc f (b ++ c), by simp [Instr.fields, Instr.op, hrest]⟩
  · obtain ⟨f, rfl⟩ := ScaledField.exists_sel hrest.1
    exact ⟨.dec f a, by simp [Instr.fields, Instr.op, hrest]⟩
  · exact ⟨.rdb a, by simp [Instr.fields, Instr.op, hrest]⟩
  · exact ⟨.wrb a c, by simp [Instr.fields, Instr.op, hrest]⟩
  · exact ⟨.rmo a b, by simp [Instr.fields, Instr.op, hrest]⟩
  · exact ⟨.rmc a b, by simp [Instr.fields, Instr.op, hrest]⟩
  · exact ⟨.wbf a b c, by simp [Instr.fields, Instr.op, hrest]⟩
  · exact ⟨.rmov a b, by simp [Instr.fields, Instr.op, hrest]⟩
  · obtain ⟨k, rfl⟩ := FlagSet.exists_sel hrest.1
    exact ⟨.dfl k a, by simp [Instr.fields, Instr.op, hrest]⟩
  · obtain ⟨t, rfl⟩ := TableId.exists_sel hrest.1
    exact ⟨.dms t a, by simp [Instr.fields, Instr.op, hrest]⟩
  · obtain ⟨f, rfl⟩ := ScaledField.exists_sel hrest.1
    refine ⟨Assembler.setl f (b ++ c), ?_⟩
    cases f <;> simp [Assembler.setl, Instr.fields, Instr.op, ScaledField.sel, hrest]
  · exact ⟨.chgEn, by simp [Instr.fields, Instr.op, hrest]⟩
  · exact ⟨.chgDis, by simp [Instr.fields, Instr.op, hrest]⟩
  · exact ⟨.wdDis, by simp [Instr.fields, Instr.op, hrest]⟩
  · exact ⟨.regRst, by simp [Instr.fields, Instr.op, hrest]⟩
  · exact ⟨.getChgStat, by simp [Instr.fields, Instr.op, hrest]⟩
  · exact ⟨.getIntStat, by simp [Instr.fields, Instr.op, hrest]⟩
  · exact ⟨.getFltStat, by simp [Instr.fields, Instr.op, hrest]⟩
  · exact ⟨.getIntFlag, by simp [Instr.fields, Instr.op, hrest]⟩
  · exact ⟨.getFltFlag, by simp [Instr.fields, Instr.op, hrest]⟩

/-- The well-formed fields are those of the commands. -/
theorem RawCmd.wellFormed_iff : r.wellFormed = true ↔ ∃ i : Instr, i.fields = r :=
  ⟨RawCmd.exists_fields, fun ⟨i, hi⟩ => hi ▸ Laws.EncodesWellFormed.all i⟩

/-- Settles O3: both sides say that no command has the word's fields. -/
theorem illegalWordsAreTheIllFormed : Obligations.IllegalWordsAreTheIllFormed := by
  intro w
  rw [Option.eq_none_iff_forall_ne_some, ← Bool.not_eq_true, RawCmd.wellFormed_iff, not_exists]
  exact forall_congr' fun i => not_congr decode_eq_some_iff

/-! ### R96's examples -/

/-- The third part of an example follows from the second, as every command is read back from its word. -/
theorem printedExample_of_assemble_encode {text : String} (ht : Assembler.assemble text = some i) (hw : encode i = w) :
    Assembler.assemble text = some i ∧ encode i = w ∧ decode w = some i :=
  ⟨ht, hw, hw ▸ decode_encode i⟩

/-- Settles O5: the texts are read, and the words computed, by evaluation. -/
theorem printedExamplesDecode : Obligations.PrintedExamplesDecode := by
  intro x hx
  simp only [List.mem_cons, List.not_mem_nil, or_false] at hx
  rcases hx with rfl | rfl | rfl | rfl | rfl | rfl | rfl | rfl | rfl | rfl <;>
    exact printedExample_of_assemble_encode (by decide) (by decide)

end Sys2Proof

/-! ## What a host reads -/

namespace Sys2Proof.Machine

/-- Bit 0 of the hit vector is the first descriptor's (R160). -/
theorem hitVector_cons_bit_zero (d : FlagDesc) (ds : List FlagDesc) (r : Byte) :
    (hitVector (d :: ds) r).getLsbD 0 = ((r &&& d.mask) == d.mask) := by
  rw [Bool.eq_iff_iff, hitVector_bit _ _ _ (by decide)]
  simp

/-- Settles O23: reading a name takes the vector's bit 0 and leaves the later descriptors' vector. -/
theorem hitVectorCarriesTheOrderedConditions : Obligations.HitVectorCarriesTheOrderedConditions := by
  intro ds r hlen
  induction ds with
  | nil => rfl
  | cons d ds ih =>
    simp only [List.length_cons] at hlen
    rw [conditionNames, hitVector_cons_bit_zero, hitVector_cons_shift d ds r (by omega), ih (by omega),
      List.filter_cons, apply_ite (List.map FlagDesc.name), List.map_cons]

/-- Settles O20: the value 0 is confined to every mask, and replacing a field by 0 clears it. -/
theorem clrfHasTheOutcomeOfRmc : Obligations.ClrfHasTheOutcomeOfRmc := by
  intro a m s
  have hwbf : exec (Assembler.clrf a m) s = execWbf a m 0 s := rfl
  have hrmc : exec (.rmc a m) s = modifyCommand a (clearMask m) s := rfl
  rw [hwbf, hrmc, execWbf, if_pos (confined_zero m), replaceField_zero]

/-! ### Response words -/

/-- The codes 0x5 to 0xE are no status's (R87). -/
theorem Status.code_assigned (st : Status) : st.code.toNat < 5 ∨ st.code.toNat = 15 := by
  cases st with
  | ok => decide
  | error k => cases k <;> decide

/-- The numeric value of a response word (R86). -/
theorem responseWord_toNat (st : Status) (p : Phys) :
    (responseWord st p).toNat = st.code.toNat * 2 ^ 28 + p.toNat := by
  simp only [responseWord, BitVec.toNat_append]
  rw [← Nat.shiftLeft_add_eq_or_of_lt p.isLt]
  simp only [Nat.shiftLeft_eq, BitVec.ofNat_eq_ofNat, BitVec.toNat_zero, Nat.or_zero]
  omega

/-- Settles O32: each field is read off the word's numeric value. -/
theorem responseWordFields : Obligations.ResponseWordFields := by
  refine ⟨fun st p => ?_, rfl, rfl, rfl, rfl, rfl, rfl⟩
  have hc := st.code.isLt
  have hp := p.isLt
  refine ⟨?_, ?_, ?_, st.code_assigned⟩ <;> apply BitVec.eq_of_toNat_eq <;>
    simp only [BitVec.extractLsb'_toNat, Nat.shiftRight_eq_div_pow, responseWord_toNat, BitVec.toNat_ofNat,
      BitVec.ofNat_eq_ofNat] <;> omega

end Sys2Proof.Machine

/-! ## The scaler

ENC and DEC started in EXEC (R110, R111), by the byte `scale` and the value `decodeScaled` of the field's descriptor;
the laws R113 to R115 are then arithmetic of these two. -/

namespace Sys2Proof.Machine

variable {d : FieldDesc} {f : ScaledField} {p : Phys} {s : State}

/-! ### The two commands -/

theorem exec_enc_in_range (hs : s.phase = .exec)
    (h : (fieldDesc s.cfg f).min ≤ p.toNat ∧ p.toNat ≤ (fieldDesc s.cfg f).max) :
    exec (.enc f p) s =
      .next { s with phase := .resp, rsp := some (responseWord .ok (zext16 (scale (fieldDesc s.cfg f) p))) } := by
  have hexec : exec (.enc f p) s = execEnc f p s := rfl
  rw [hexec, execEnc, encodeScaled, if_pos ((inRange_iff _ _).2 h)]
  exact pureCommand_exec hs

theorem exec_enc_out_of_range (hs : s.phase = .exec)
    (h : ¬ ((fieldDesc s.cfg f).min ≤ p.toNat ∧ p.toNat ≤ (fieldDesc s.cfg f).max)) :
    RejectedBy (.enc f p) .outOfRange s := by
  have hexec : exec (.enc f p) s = execEnc f p s := rfl
  rw [RejectedBy, hexec, execEnc, encodeScaled, if_neg (mt (inRange_iff _ _).1 h)]
  exact rejectCommand_exec hs

theorem exec_dec (r : Byte) (hs : s.phase = .exec) :
    exec (.dec f r) s =
      .next { s with phase := .resp, rsp := some (responseWord .ok (decodeScaled (fieldDesc s.cfg f) r)) } :=
  pureCommand_exec hs

/-! ### The arithmetic of `scale` and `decodeScaled` -/

theorem scale_toNat (hw : d.wellFormed = true) (h : d.min ≤ p.toNat ∧ p.toNat ≤ d.max) :
    (scale d p).toNat = (p.toNat - d.off) / d.lsb := by
  obtain ⟨hle, hscale⟩ := scale_in_range hw h
  rw [hscale, BitVec.toNat_ofNat, Nat.mod_eq_of_lt (by omega)]

/-- The byte as a payload is the quotient in 16 bits. -/
theorem zext16_scale (hw : d.wellFormed = true) (h : d.min ≤ p.toNat ∧ p.toNat ≤ d.max) :
    zext16 (scale d p) = BitVec.ofNat 16 ((p.toNat - d.off) / d.lsb) := by
  rw [← scale_toNat hw h, zext16, BitVec.ofNat_toNat]

theorem scale_mono {q : Phys} (hw : d.wellFormed = true) (hp : d.min ≤ p.toNat) (hpq : p.toNat ≤ q.toNat)
    (hq : q.toNat ≤ d.max) : (scale d p).toNat ≤ (scale d q).toNat := by
  rw [scale_toNat hw ⟨hp, hpq.trans hq⟩, scale_toNat hw ⟨hp.trans hpq, hq⟩]
  exact Nat.div_le_div_right (Nat.sub_le_sub_right hpq _)

/-- The lower bound of each field of R31 is its offset. -/
theorem fieldDesc_min_eq_off (g : Config) (f : ScaledField) : (fieldDesc g f).min = (fieldDesc g f).off := by
  cases f <;> rfl

/-- What DEC answers is never below the field's range (R114). -/
theorem min_le_decodeScaled (g : Config) (f : ScaledField) (r : Byte) :
    (fieldDesc g f).min ≤ (decodeScaled (fieldDesc g f) r).toNat := by
  rw [fieldDesc_min_eq_off, decodeScaled_toNat]
  exact Nat.le_add_left _ _

theorem decodeScaled_le_max_iff (g : Config) (f : ScaledField) (r : Byte) :
    (decodeScaled (fieldDesc g f) r).toNat ≤ (fieldDesc g f).max ↔
      r.toNat ≤ ((fieldDesc g f).max - (fieldDesc g f).off) / (fieldDesc g f).lsb := by
  obtain ⟨hlsb, hoff, hmax, -⟩ := fieldDesc_bounds (fieldDesc_wellFormed g f)
  rw [decodeScaled_toNat, Nat.le_div_iff_mul_le hlsb, Nat.le_sub_iff_add_le (hoff.trans hmax)]

theorem scale_decodeScaled {g : Config} {r : Byte}
    (h : (decodeScaled (fieldDesc g f) r).toNat ≤ (fieldDesc g f).max) :
    scale (fieldDesc g f) (decodeScaled (fieldDesc g f) r) = r := by
  have hw := fieldDesc_wellFormed g f
  have hlsb := (fieldDesc_bounds hw).1
  apply BitVec.eq_of_toNat_eq
  rw [scale_toNat hw ⟨min_le_decodeScaled g f r, h⟩, decodeScaled_toNat, Nat.add_sub_cancel,
    Nat.mul_div_cancel _ hlsb]

/-- Scaled and decoded, a value in range loses the remainder of its distance from the offset (R113). -/
theorem decodeScaled_scale_add_mod {g : Config}
    (h : (fieldDesc g f).min ≤ p.toNat ∧ p.toNat ≤ (fieldDesc g f).max) :
    (decodeScaled (fieldDesc g f) (scale (fieldDesc g f) p)).toNat +
      (p.toNat - (fieldDesc g f).off) % (fieldDesc g f).lsb = p.toNat := by
  have hw := fieldDesc_wellFormed g f
  obtain ⟨-, hoff, -⟩ := fieldDesc_bounds hw
  have hdiv := Nat.div_add_mod' (p.toNat - (fieldDesc g f).off) (fieldDesc g f).lsb
  rw [decodeScaled_toNat, scale_toNat hw h]
  omega

/-! ### The laws -/

/-- Settles O8. -/
theorem encEncodesOrRejects : Obligations.EncEncodesOrRejects := by
  intro f p s hs
  refine ⟨fun h => ?_, exec_enc_out_of_range hs⟩
  rw [exec_enc_in_range hs h, zext16_scale (fieldDesc_wellFormed _ _) h]

/-- Settles O9: the sum fits the payload (`decodeScaled_toNat`). -/
theorem decDecodesEveryByte : Obligations.DecDecodesEveryByte :=
  fun f r s hs => ⟨_, decodeScaled_toNat s.cfg f r, exec_dec r hs⟩

/-- Settles O10: the value decoded is a multiple of the step above the offset, and the value encoded is that plus a
remainder of the step (`decodeScaled_scale_add_mod`). -/
theorem scalerRoundTripWithinOneStep : Obligations.ScalerRoundTripWithinOneStep := by
  intro f p s hs hmin hmax
  have hlsb := (fieldDesc_bounds (fieldDesc_wellFormed s.cfg f)).1
  have hsum := decodeScaled_scale_add_mod ⟨hmin, hmax⟩
  have hlt := Nat.mod_lt (p.toNat - (fieldDesc s.cfg f).off) hlsb
  have hdec := decodeScaled_toNat s.cfg f (scale (fieldDesc s.cfg f) p)
  refine ⟨_, _, exec_enc_in_range hs ⟨hmin, hmax⟩, exec_dec _ hs, ⟨by omega, ?_⟩, by omega, by omega, ?_⟩
  · rw [hdec, Nat.add_sub_cancel]
    exact Nat.dvd_mul_left _ _
  · rw [← BitVec.toNat_inj, Nat.dvd_iff_mod_eq_zero]
    omega

/-- Settles O11: the lower bound is the offset, so only the upper bound can turn the value away. -/
theorem encOfDecIsTheByteOrOutOfRange : Obligations.EncOfDecIsTheByteOrOutOfRange := by
  intro f r s hs
  refine ⟨_, exec_dec r hs, decodeScaled_le_max_iff s.cfg f r, fun h => ?_, fun h => ?_⟩
  · rw [exec_enc_in_range hs ⟨min_le_decodeScaled s.cfg f r, h⟩, scale_decodeScaled h]
  · exact exec_enc_out_of_range hs fun hr => h hr.2

/-- Settles O12: floor division is monotonic (`scale_mono`). -/
theorem encIsMonotonic : Obligations.EncIsMonotonic := by
  intro f s hs
  refine ⟨fun p q hp hpq hq => ?_, fun p h => exec_enc_out_of_range hs (by omega)⟩
  exact ⟨_, _, exec_enc_in_range hs ⟨hp, hpq.trans hq⟩, exec_enc_in_range hs ⟨hp.trans hpq, hq⟩,
    scale_mono (fieldDesc_wellFormed s.cfg f) hp hpq hq⟩

end Sys2Proof.Machine

/-! ## The register sequencers

What the shapes `read`, `write`, `modify` and `verify` do from EXEC, for each answer of the transport, in the words of
Safety.lean (R132 to R138). A command's statement is then its shape and its byte combination. -/

namespace Sys2Proof.Machine

variable {i : Instr} {s t u : State} {a m r w x : Byte} {rest more : List TRsp} {evs : List Event} {f : Byte → Byte}
  {k : State → Result} {sh : Shape}

/-! ### Masks -/

theorem fullySet_iff : fullySet m r = true ↔ r &&& m = m := beq_iff_eq

theorem confined_iff {v : Byte} : confined v m = true ↔ v &&& ~~~m = 0 := beq_iff_eq

/-! ### The states between a command's transactions -/

@[simp] theorem State.ended_trace {y : Word} : (s.ended y evs rest).trace = s.trace ++ evs := rfl

/-- `s`, started in EXEC, once the read of register `a` has answered `r` and the write of `w` is issued. -/
def State.writing (s : State) (a r w : Byte) (rest : List TRsp) : State :=
  { s.waitingLater .wr (.write s.cfg.devAddr a w) (readWriteEvents s.cfg.devAddr a r w) with lat := r, trspIn := rest }

/-- `s`, started in EXEC, once in addition the write has answered `ok x` and the read-back is issued. -/
def State.readingBack (s : State) (a r w x : Byte) (rest : List TRsp) : State :=
  { s.waitingLater .vrd (.read s.cfg.devAddr a) (readBackEvents s.cfg.devAddr a r w x) with lat := r, trspIn := rest }

@[simp] theorem State.writing_trace :
    (s.writing a r w rest).trace = s.trace ++ readWriteEvents s.cfg.devAddr a r w := rfl

@[simp] theorem State.readingBack_trace :
    (s.readingBack a r w x rest).trace = s.trace ++ readBackEvents s.cfg.devAddr a r w x := rfl

@[simp] theorem State.writing_cfg : (s.writing a r w rest).cfg = s.cfg := rfl

theorem State.writing_answers : (s.writing a r w rest).answers = rest := rfl

theorem State.readingBack_answers : (s.readingBack a r w x rest).answers = rest := rfl

/-- A history grows event by event, and the statements write out its growth as one list. -/
theorem State.eq_of_trace_eq (h : t = { u with trace := t.trace }) (ht : t.trace = u.trace) : t = u := by
  rw [h, ht]

theorem next_eq_of_trace_eq (h : t = { u with trace := t.trace }) (ht : t.trace = u.trace) :
    (.next t : Result) = .next u :=
  congrArg _ (State.eq_of_trace_eq h ht)

/-- A read that succeeds is followed by the write of the combined byte, whatever the byte is (R138). -/
theorem readThenWrite_writes (ha : s.answers = .ok r :: rest) :
    readThenWrite a f k (s.issueRead .rd a) = inWrite k (s.writing a r (f r) rest) := by
  rw [readThenWrite, inRead_ok (s := s.issueRead .rd a) ha]
  exact congrArg (inWrite k) (State.eq_of_trace_eq rfl (by simp [readWriteEvents]))

/-- A write that succeeds is followed by the read-back (R137). -/
theorem inWrite_readsBack :
    inWrite (readBack a m) (s.writing a r w (.ok x :: rest)) = inVerify m (s.readingBack a r w x rest) := by
  rw [inWrite_ok State.writing_answers, readBack]
  exact congrArg (inVerify m) (State.eq_of_trace_eq rfl (by simp [readBackEvents]))

/-! ### Reading, writing, and reading before writing -/

theorem exec_of_shape (hsh : shapeOf s.cfg i = sh) : exec i s = sh.run s :=
  hsh ▸ exec_eq_run i s

/-- Turned away by validation, a command records no information: its payload is 0 (R212, R213). -/
theorem rejectedBy_of_validation {x : ErrorKind} (hp : s.phase = .exec) (hv : validation s.cfg i = some x) :
    RejectedBy i x s := by
  have hsh := shapeOf_validation s.cfg i
  simp only [hv] at hsh
  rw [RejectedBy, exec_eq_run, hsh, ← payload_of_validation hv s.einfo s.vlat]
  exact rejectCommand_exec hp

/-- What a command that starts with a read does when the read is not answered, and when it fails. -/
theorem exec_of_first_read (hx : exec i s = inRead k (s.issueRead .rd a)) :
    (s.answers = [] → exec i s = .next (s.waitingFirst .rd (.read s.cfg.devAddr a))) ∧
    ∀ e rest, s.answers = .err e :: rest →
      exec i s = .next { s.ended (transportErrorWord e)
        [.treq (.read s.cfg.devAddr a), .trsp (.err e)] rest with einfo := e } := by
  refine ⟨fun ha => ?_, fun e rest ha => ?_⟩
  · rw [hx, inRead_waits (s := s.issueRead .rd a) ha]
    rfl
  · rw [hx, inRead_err (s := s.issueRead .rd a) ha]
    exact next_eq_of_trace_eq rfl (by simp)

theorem readsThenResponds_of_shape {a : Config → Byte} {f : Config → Byte → Phys}
    (hsh : ∀ g, shapeOf g i = .read (a g) (f g)) : ReadsThenResponds i a f := by
  intro s hp
  have hx := (exec_of_shape (hsh s.cfg)).trans (readCommand_exec hp)
  obtain ⟨hwaits, hfails⟩ := exec_of_first_read hx
  refine ⟨hwaits, hfails, fun r rest ha => ?_⟩
  rw [hx, inRead_ok (s := s.issueRead .rd _) ha]
  exact next_eq_of_trace_eq rfl (by simp)

theorem writesOnce_of_shape {a : Config → Byte} {v : Byte} (hp : s.phase = .exec)
    (hsh : shapeOf s.cfg i = .write (a s.cfg) v) : WritesOnce i a v s := by
  have hx := (exec_of_shape hsh).trans (writeCommand_exec hp)
  refine ⟨fun ha => ?_, fun e rest ha => ?_, fun x rest ha => ?_⟩
  · rw [hx, inWrite_waits (s := s.issueWrite _ v) ha]
    rfl
  · rw [hx, inWrite_err (s := s.issueWrite _ v) ha]
    exact next_eq_of_trace_eq rfl (by simp)
  · rw [hx, inWrite_ok (s := s.issueWrite _ v) ha]
    exact next_eq_of_trace_eq rfl (by simp)

/-- Whatever follows its write, a read-modify-write command is the same up to the write's answer. -/
theorem readsThenWrites_of_exec {a : Config → Byte} {f : Config → Byte → Byte}
    (hx : exec i s = readThenWrite (a s.cfg) (f s.cfg) k (s.issueRead .rd (a s.cfg))) : ReadsThenWrites i a f s := by
  obtain ⟨hwaits, hfails⟩ := exec_of_first_read hx
  refine ⟨hwaits, hfails, fun r ha => ?_, fun r e rest ha => ?_⟩
  · rw [hx, readThenWrite_writes ha, inWrite_waits State.writing_answers]
    rfl
  · rw [hx, readThenWrite_writes ha, inWrite_err State.writing_answers]
    exact next_eq_of_trace_eq rfl (by simp)

/-! ### With and without verification -/

theorem exec_of_modify (hp : s.phase = .exec) (hsh : shapeOf s.cfg i = .modify a f) :
    exec i s = readThenWrite a f done (s.issueRead .rd a) :=
  (exec_of_shape hsh).trans (modifyCommand_exec hp)

theorem exec_of_verify (hp : s.phase = .exec) (hsh : shapeOf s.cfg i = .verify a m) :
    exec i s = readThenWrite a (orMask m) (readBack a m) (s.issueRead .rd a) :=
  (exec_of_shape hsh).trans (verifyCommand_exec hp)

theorem modifies_of_shape {a : Config → Byte} {f : Config → Byte → Byte} (hp : s.phase = .exec)
    (hsh : shapeOf s.cfg i = .modify (a s.cfg) (f s.cfg)) : ReadsThenWrites i a f s ∧ EndsAfterWrite i a f s := by
  have hx := exec_of_modify hp hsh
  refine ⟨readsThenWrites_of_exec hx, fun r x rest ha => ?_⟩
  rw [hx, readThenWrite_writes ha, inWrite_ok State.writing_answers]
  exact next_eq_of_trace_eq rfl (by simp)

/-- The byte read back decides between the two responses by the bits of the mask alone (R137). -/
theorem verifies_of_shape {a m : Config → Byte} (hp : s.phase = .exec)
    (hsh : shapeOf s.cfg i = .verify (a s.cfg) (m s.cfg)) :
    ReadsThenWrites i a (fun g r => r ||| m g) s ∧ VerifiesAfterWrite i a m s := by
  have hx := exec_of_verify hp hsh
  refine ⟨readsThenWrites_of_exec hx, fun r x ha => ?_, fun r x e rest ha => ?_, fun r x v rest ha => ?_⟩ <;>
    rw [hx, readThenWrite_writes ha, inWrite_readsBack]
  · rw [inVerify_waits State.readingBack_answers]
    rfl
  · rw [inVerify_err State.readingBack_answers]
    exact next_eq_of_trace_eq rfl (by simp [orMask])
  · rw [inVerify_ok State.readingBack_answers]
    by_cases hv : v &&& m s.cfg = m s.cfg
    · rw [if_pos hv, if_pos (fullySet_iff.2 hv)]
      exact next_eq_of_trace_eq rfl (by simp [orMask])
    · rw [if_neg hv, if_neg (mt fullySet_iff.1 hv)]
      exact next_eq_of_trace_eq rfl (by simp [orMask])

/-! ### The six commands -/

theorem shapeOf_wbf {v : Byte} (g : Config) (a : Byte) (h : v &&& ~~~m = 0) :
    shapeOf g (.wbf a m v) = .modify a (replaceField m v) :=
  if_pos (confined_iff.2 h)

/-- Settles O15: RMO is the shape that combines with `orMask`. -/
theorem rmoSetsTheMaskBits : Obligations.RmoSetsTheMaskBits :=
  fun _ _ _ hp => modifies_of_shape hp rfl

/-- Settles O16: RMC is the shape that combines with `clearMask`. -/
theorem rmcClearsTheMaskBits : Obligations.RmcClearsTheMaskBits :=
  fun _ _ _ hp => modifies_of_shape hp rfl

/-- Settles O17: a value with a bit outside the mask fails WBF's validation; any other makes WBF the shape that combines
with `replaceField`. -/
theorem wbfReplacesTheField : Obligations.WbfReplacesTheField :=
  fun a _ _ s hp =>
    ⟨fun hv => rejectedBy_of_validation hp (if_neg (mt confined_iff.1 hv)),
      fun hv => modifies_of_shape hp (shapeOf_wbf s.cfg a hv)⟩

/-- Settles O18: RMOV is the shape that verifies. -/
theorem rmovVerifiesTheMaskBits : Obligations.RmovVerifiesTheMaskBits :=
  fun _ _ _ hp => verifies_of_shape hp rfl

/-- A command whose read succeeded has its write issued, and runs on from there in WR, where its history only grows
(R138). -/
theorem exists_trace_of_readThenWrite (ha : s.answers = .ok r :: more)
    (hx : exec i s = readThenWrite a f k (s.issueRead .rd a)) (hw : .wr ∈ sh.waits)
    (hk : ∀ u : State, u.phase = .wr → sh.run u = inWrite k u) :
    ∃ t tail, exec i s = .next t ∧ t.trace = s.trace ++ readWriteEvents s.cfg.devAddr a r (f r) ++ tail := by
  obtain ⟨t, ht, hmoves⟩ := Shape.run_total (s := s.writing a r (f r) more) (.inr hw)
  obtain ⟨tail, htrace, -⟩ := hmoves.trace
  refine ⟨t, tail, ?_, htrace⟩
  rw [hx, readThenWrite_writes ha, ← hk _ rfl, ht]

theorem modify_issues_write (hp : s.phase = .exec) (ha : s.answers = .ok r :: more)
    (hsh : shapeOf s.cfg i = .modify a f) :
    ∃ t tail, exec i s = .next t ∧ t.trace = s.trace ++ readWriteEvents s.cfg.devAddr a r (f r) ++ tail :=
  exists_trace_of_readThenWrite (sh := .modify a f) ha (exec_of_modify hp hsh) (by simp [Shape.waits])
    fun _ => modifyCommand_wr

theorem verify_issues_write (hp : s.phase = .exec) (ha : s.answers = .ok r :: more)
    (hsh : shapeOf s.cfg i = .verify a m) :
    ∃ t tail, exec i s = .next t ∧ t.trace = s.trace ++ readWriteEvents s.cfg.devAddr a r (orMask m r) ++ tail :=
  exists_trace_of_readThenWrite (sh := .verify a m) ha (exec_of_verify hp hsh) (by simp [Shape.waits])
    fun _ => verifyCommand_wr

/-- Settles O19: each command issues its write (`modify_issues_write`, `verify_issues_write`), and the bits of the byte
written are those of its combination (`orMask_bits`, `clearMask_bits`, `replaceField_bits`). -/
theorem sequencerWriteIsUnconditionalAndKeepsOtherBits :
    Obligations.SequencerWriteIsUnconditionalAndKeepsOtherBits := by
  intro a m v r more s hp ha
  refine ⟨?_, ?_, fun hv => ?_, ?_⟩
  · obtain ⟨t, tail, ht, htrace⟩ := modify_issues_write (i := .rmo a m) hp ha rfl
    exact ⟨t, _, tail, ht, htrace, orMask_bits m r⟩
  · obtain ⟨t, tail, ht, htrace⟩ := modify_issues_write (i := .rmc a m) hp ha rfl
    exact ⟨t, _, tail, ht, htrace, clearMask_bits m r⟩
  · obtain ⟨t, tail, ht, htrace⟩ := modify_issues_write hp ha (shapeOf_wbf s.cfg a hv)
    exact ⟨t, _, tail, ht, htrace, replaceField_bits r (confined_iff.2 hv)⟩
  · obtain ⟨t, tail, ht, htrace⟩ := verify_issues_write (i := .rmov a m) hp ha rfl
    exact ⟨t, _, tail, ht, htrace, orMask_bits m r⟩

/-- Settles O13: RDB is the shape that reads, and its payload is the byte read. -/
theorem rdbReadsTheRegister : Obligations.RdbReadsTheRegister :=
  fun _ => readsThenResponds_of_shape fun _ => rfl

/-- Settles O14: WRB is the shape that writes without a read. -/
theorem wrbWritesTheByte : Obligations.WrbWritesTheByte :=
  fun _ _ _ hp => writesOnce_of_shape hp rfl

end Sys2Proof.Machine

/-! ## The extractor

DFL by the bits of its hit vector, under what R33 asks of a descriptor set; DMS by its first match (R160, R161, R165). -/

namespace Sys2Proof.Machine

variable {ds : List FlagDesc} {d e : FlagDesc} {i j : Nat} {s : State}

/-! ### Well-formed descriptor sets (R33) -/

theorem masks_of_flagSetWellFormed (hw : flagSetWellFormed ds = true) :
    (∀ d ∈ ds, d.mask ≠ 0) ∧ ds.Pairwise fun d e => d.apart e = true := by
  simp only [flagSetWellFormed, Bool.and_eq_true, decide_eq_true_eq, List.all_eq_true, bne_iff_ne] at hw
  obtain ⟨⟨-, hmask⟩, hpair⟩ := hw
  exact ⟨hmask, hpair⟩

/-- A descriptor's mask is fully set in no mask of its set but its own. -/
theorem index_eq_of_mask_subset (hw : flagSetWellFormed ds = true) (hi : ds[i]? = some d) (hj : ds[j]? = some e)
    (h : d.mask &&& e.mask = e.mask) : j = i := by
  obtain ⟨-, hpair⟩ := masks_of_flagSetWellFormed hw
  obtain ⟨hi', rfl⟩ := List.getElem?_eq_some_iff.1 hi
  obtain ⟨hj', rfl⟩ := List.getElem?_eq_some_iff.1 hj
  have hapart {a b : Nat} (ha : a < ds.length) (hb : b < ds.length) (hab : a < b) :
      ds[b].mask &&& ds[a].mask ≠ ds[a].mask ∧ ds[a].mask &&& ds[b].mask ≠ ds[b].mask := by
    have hmasks := List.pairwise_iff_getElem.1 hpair a b ha hb hab
    simp only [FlagDesc.apart, Bool.and_eq_true, bne_iff_ne] at hmasks
    exact hmasks.1
  rcases Nat.lt_trichotomy j i with hlt | heq | hgt
  · exact absurd h (hapart hj' hi' hlt).1
  · exact heq
  · exact absurd h (hapart hi' hj' hgt).2

/-! ### The hit vector (R161) -/

theorem hitVector_zero (hw : flagSetWellFormed ds = true) : hitVector ds 0 = 0 := by
  obtain ⟨hmask, -⟩ := masks_of_flagSetWellFormed hw
  apply BitVec.eq_of_getLsbD_eq
  intro j hj
  rw [Bool.eq_iff_iff, hitVector_bit _ _ _ hj]
  refine iff_of_false ?_ (by simp)
  rintro ⟨e, he, h⟩
  exact hmask e (List.mem_of_getElem? he) (h.symm.trans BitVec.zero_and)

theorem hitVector_mask (hw : flagSetWellFormed ds = true) (hi : ds[i]? = some d) :
    hitVector ds d.mask = BitVec.ofNat 16 (2 ^ i) := by
  apply BitVec.eq_of_getLsbD_eq
  intro j hj
  have hbit : (BitVec.ofNat 16 (2 ^ i)).getLsbD j = true ↔ i = j := by
    rw [BitVec.getLsbD_ofNat, Nat.testBit_two_pow]
    simp [hj]
  rw [Bool.eq_iff_iff, hitVector_bit _ _ _ hj, hbit]
  constructor
  · rintro ⟨e, he, h⟩
    exact (index_eq_of_mask_subset hw hi he h).symm
  · rintro rfl
    exact ⟨d, hi, BitVec.and_self⟩

/-- A mask fully set in a byte is fully set in every byte with more bits set. -/
theorem mask_subset_trans {m r q : Byte} (hrq : r &&& q = r) (h : r &&& m = m) : q &&& m = m := by
  calc q &&& m = q &&& (r &&& m) := by rw [h]
    _ = (r &&& q) &&& m := by rw [← BitVec.and_assoc, BitVec.and_comm q r]
    _ = m := by rw [hrq, h]

theorem hitVector_mono (ds : List FlagDesc) {r q : Byte} (hrq : r &&& q = r) :
    hitVector ds r &&& hitVector ds q = hitVector ds r := by
  apply BitVec.eq_of_getLsbD_eq
  intro j hj
  rw [BitVec.getLsbD_and, Bool.and_eq_left_iff_imp, hitVector_bit _ _ _ hj, hitVector_bit _ _ _ hj]
  rintro ⟨e, he, h⟩
  exact ⟨e, he, mask_subset_trans hrq h⟩

/-! ### The two commands -/

theorem exec_dfl (k : FlagSet) (raw : Byte) (hp : s.phase = .exec) :
    exec (.dfl k raw) s =
      .next { s with phase := .resp, rsp := some (responseWord .ok (hitVector (descs s.cfg k) raw)) } :=
  pureCommand_exec hp

/-- Settles O21: each bit of the vector is `hitVector_bit`. -/
theorem dflAnswersTheHitVector : Obligations.DflAnswersTheHitVector :=
  fun k raw _ hp => ⟨_, exec_dfl k raw hp, hitVector_bit _ raw⟩

/-- Settles O22: R33 leaves no mask 0 (`hitVector_zero`) and none within another (`hitVector_mask`); the third property
holds of every set (`hitVector_mono`). -/
theorem dflPropertiesOfWellFormedSets : Obligations.DflPropertiesOfWellFormedSets := by
  intro k s hp hw
  have hset := flagSetWellFormed_of_config hw k
  refine ⟨?_, fun i d hi => ?_, fun r q hrq => ?_⟩
  · rw [exec_dfl k 0 hp, hitVector_zero hset]
  · rw [exec_dfl k d.mask hp, hitVector_mask hset hi]
  · exact ⟨_, _, exec_dfl k r hp, exec_dfl k q hp, hitVector_mono _ hrq⟩

/-- The state code depends on the masked bits alone (R165). -/
theorem stateCode_and_mask (t : StateTable) (r : Byte) : stateCode t (r &&& t.mask) = stateCode t r := by
  rw [stateCode, stateCode, BitVec.and_assoc, BitVec.and_self]

/-- Settles O24: the code is `firstMatch` of the masked byte, at most 15 as R35 bounds the table. -/
theorem dmsAnswersTheFirstMatch : Obligations.DmsAnswersTheFirstMatch := by
  intro t raw s hp hw
  refine ⟨?_, firstMatch (stateTable s.cfg t).ent (raw &&& (stateTable s.cfg t).mask),
    (firstMatch_le _ _).trans (stateTable_length_le hw t), exec_dms t raw hp, firstMatch_eq_zero_iff _ _,
    firstMatch_eq_succ_iff _ _⟩
  rw [exec_dms t raw hp, exec_dms t _ hp, stateCode_and_mask]

end Sys2Proof.Machine

/-! ## The composites

Each composite is the shape of its expansion with the configuration's constants (R180), so the control commands and the
read-backs are settled by the shapes of the sequencers. The four setters are one command, `Assembler.setl`, over the
field; its byte is `scale` of the field's descriptor. -/

namespace Sys2Proof.Machine

variable {i : Instr} {s : State} {g : Config} {f : ScaledField} {p : Phys} {a : Config → Byte}

/-! ### The setters -/

theorem shapeOf_setl (g : Config) (f : ScaledField) (p : Phys) :
    shapeOf g (Assembler.setl f p) = setShape g f p := by
  cases f <;> rfl

theorem validation_setl (g : Config) (f : ScaledField) (p : Phys) :
    validation g (Assembler.setl f p) = if inRange (fieldDesc g f) p then none else some .outOfRange := by
  cases f <;> rfl

/-- In range, a setter is the write of the scaled byte (R181). -/
theorem shapeOf_setl_in_range (h : (fieldDesc g f).min ≤ p.toNat ∧ p.toNat ≤ (fieldDesc g f).max) :
    shapeOf g (Assembler.setl f p) = .write (faddr g f) (scale (fieldDesc g f) p) := by
  rw [shapeOf_setl, setShape, encodeScaled, if_pos ((inRange_iff _ _).2 h)]

theorem setl_writesOnce (hp : s.phase = .exec)
    (h : (fieldDesc s.cfg f).min ≤ p.toNat ∧ p.toNat ≤ (fieldDesc s.cfg f).max) :
    WritesOnce (Assembler.setl f p) (fun g => faddr g f) (scale (fieldDesc s.cfg f) p) s :=
  writesOnce_of_shape hp (shapeOf_setl_in_range h)

theorem setl_out_of_range (hp : s.phase = .exec)
    (h : ¬ ((fieldDesc s.cfg f).min ≤ p.toNat ∧ p.toNat ≤ (fieldDesc s.cfg f).max)) :
    RejectedBy (Assembler.setl f p) .outOfRange s :=
  rejectedBy_of_validation hp (by rw [validation_setl, if_neg (mt (inRange_iff _ _).1 h)])

/-- Settles O26: each setter is `Assembler.setl` of its field. -/
theorem settersWriteTheEncodedByte : Obligations.SettersWriteTheEncodedByte := by
  intro p s hp x hx
  have hsetl : x.1 = Assembler.setl x.2 p := by
    revert x
    simp [Assembler.setl]
  rw [hsetl]
  refine ⟨fun h => ?_, setl_out_of_range hp⟩
  rw [← (scale_in_range (fieldDesc_wellFormed s.cfg x.2) h).2]
  exact setl_writesOnce hp h

/-! ### The setters' requests and upper bits -/

/-- A command that writes once makes that one request, whatever the transport has answered. -/
theorem WritesOnce.requests {v : Byte} (h : WritesOnce i a v s) :
    ∃ t evs, exec i s = .next t ∧ t.trace = s.trace ++ evs ∧ requestsOf evs = [.write s.cfg.devAddr (a s.cfg) v] := by
  obtain ⟨hwaits, hfails, hends⟩ := h
  obtain ha | ⟨e, rest, ha⟩ | ⟨b, rest, ha⟩ := answers_cases s
  · exact ⟨_, _, hwaits ha, rfl, rfl⟩
  · exact ⟨_, _, hfails e rest ha, rfl, rfl⟩
  · exact ⟨_, _, hends b rest ha, rfl, rfl⟩

/-- How many bits the largest raw byte of a field takes (R185). -/
def rawWidth : ScaledField → Nat
  | .vbat   => 8
  | .ichg   => 7
  | .vindpm => 7
  | .iindpm => 5

theorem scale_lt_rawWidth (h : (fieldDesc g f).min ≤ p.toNat ∧ p.toNat ≤ (fieldDesc g f).max) :
    (scale (fieldDesc g f) p).toNat < 2 ^ rawWidth f := by
  rw [scale_toNat (fieldDesc_wellFormed g f) h]
  cases f <;> simp only [fieldDesc, rawWidth] at h ⊢ <;> omega

/-- A byte below `2 ^ n` has no bit in common with the bits from `n` up. -/
theorem and_shiftLeft_eq_zero_of_lt {v : Byte} {n : Nat} (h : v.toNat < 2 ^ n) (m : Byte) : v &&& (m <<< n) = 0 := by
  apply BitVec.eq_of_getLsbD_eq
  intro j _
  rw [BitVec.getLsbD_and, BitVec.getLsbD_shiftLeft]
  rcases Nat.lt_or_ge j n with hj | hj
  · simp [hj]
  · have hv : v.getLsbD j = false := Nat.testBit_lt_two_pow (h.trans_le (Nat.pow_le_pow_right (by decide) hj))
    simp [hv]

/-- Settles O27: the one request is `WritesOnce.requests`, and its byte takes `rawWidth` bits. -/
theorem settersWriteUpperBitsAsZero : Obligations.SettersWriteUpperBitsAsZero := by
  intro p s hp x hx d
  have hfield : x.1 = Assembler.setl x.2.1 p ∧ x.2.2 = (0xFF : Byte) <<< rawWidth x.2.1 := by
    clear d
    revert x
    simp [Assembler.setl, rawWidth]
  obtain ⟨hsetl, hbits⟩ := hfield
  rw [hsetl, hbits]
  by_cases h : d.min ≤ p.toNat ∧ p.toNat ≤ d.max
  · obtain ⟨t, evs, hexec, htrace, hreq⟩ := (setl_writesOnce hp h).requests
    exact ⟨t, evs, hexec, htrace, fun _ => ⟨_, hreq, (scale_in_range (fieldDesc_wellFormed s.cfg x.2.1) h).2,
      and_shiftLeft_eq_zero_of_lt (scale_lt_rawWidth h) _⟩, absurd h⟩
  · exact ⟨_, [], setl_out_of_range hp h, (List.append_nil _).symm, fun hr => absurd hr h, fun _ => rfl⟩

/-! ### The control commands and the read-backs -/

/-- Settles O28: CHG_EN is the shape that verifies. -/
theorem chgEnSetsAndVerifiesTheEnableBit : Obligations.ChgEnSetsAndVerifiesTheEnableBit :=
  fun _ hp => verifies_of_shape hp rfl

/-- Settles O29: the three commands are the shape that modifies, with `clearMask`, `replaceField` and `orMask`. -/
theorem controlCommandsReadThenWrite : Obligations.ControlCommandsReadThenWrite :=
  fun _ hp => ⟨modifies_of_shape hp rfl, modifies_of_shape hp rfl, modifies_of_shape hp rfl⟩

/-- Settles O30: the five commands are the shape that reads, each with its register and its table. -/
theorem readBacksReadThenDecode : Obligations.ReadBacksReadThenDecode :=
  ⟨readsThenResponds_of_shape fun _ => rfl, readsThenResponds_of_shape fun _ => rfl,
    readsThenResponds_of_shape fun _ => rfl, readsThenResponds_of_shape fun _ => rfl,
    readsThenResponds_of_shape fun _ => rfl⟩

/-! ### Expansions (R180) -/

/-- The watchdog's off code is confined to its mask, so WBF does not turn it away (R38). -/
theorem exec_wdDis_eq_wbf (hw : s.cfg.wellFormed = true) :
    exec .wdDis s = exec (.wbf s.cfg.wdAddr s.cfg.wdMask s.cfg.wdOffCode) s :=
  (exec_of_shape (shapeOf_wbf s.cfg _ (confined_iff.1 (watchdogOff_confined hw)))).symm

theorem exec_setl_eq_wrb (h : (fieldDesc s.cfg f).min ≤ p.toNat ∧ p.toNat ≤ (fieldDesc s.cfg f).max) :
    exec (Assembler.setl f p) s = exec (.wrb (faddr s.cfg f) (scale (fieldDesc s.cfg f) p)) s :=
  exec_of_shape (shapeOf_setl_in_range h)

/-- A command that reads has the outcome of RDB, but for the response to a byte read: that is the one of a command `j`
that answers the same payload of the byte. -/
theorem ReadsThenResponds.expansion {payload : Config → Byte → Phys} {j : Byte → Instr}
    (hi : ReadsThenResponds i a payload) (hp : s.phase = .exec)
    (hj : ∀ r, exec (j r) s = .next (s.respond (payload s.cfg r))) :
    ((∀ r rest, s.answers ≠ .ok r :: rest) → exec i s = exec (.rdb (a s.cfg)) s) ∧
    (∀ r rest, s.answers = .ok r :: rest → ∃ t u, exec (.rdb (a s.cfg)) s = .next t ∧
      exec (j r) s = .next u ∧ exec i s = .next { t with rsp := u.rsp }) := by
  obtain ⟨hwaits, hfails, hends⟩ := hi s hp
  obtain ⟨hrdb_waits, hrdb_fails, hrdb_ends⟩ := rdbReadsTheRegister (a s.cfg) s hp
  refine ⟨fun hok => ?_, fun r rest ha => ⟨_, _, hrdb_ends r rest ha, hj r, hends r rest ha⟩⟩
  obtain ha | ⟨e, rest, ha⟩ | ⟨b, rest, ha⟩ := answers_cases s
  · exact (hwaits ha).trans (hrdb_waits ha).symm
  · exact (hfails e rest ha).trans (hrdb_fails e rest ha).symm
  · exact absurd ha (hok b rest)

/-- Settles O31: a composite's shape is that of its expansion. -/
theorem compositesHaveTheOutcomeOfTheirExpansion : Obligations.CompositesHaveTheOutcomeOfTheirExpansion := by
  intro s
  refine ⟨rfl, rfl, rfl, exec_wdDis_eq_wbf, fun hp f p => ?_, fun hp x hx => ?_⟩
  · by_cases h : (fieldDesc s.cfg f).min ≤ p.toNat ∧ p.toNat ≤ (fieldDesc s.cfg f).max
    · exact .inl ⟨_, exec_enc_in_range hp h, exec_setl_eq_wrb h⟩
    · have henc := exec_enc_out_of_range hp h
      exact .inr ⟨henc, (setl_out_of_range hp h).trans henc.symm⟩
  · obtain ⟨hchg, hints, hflts, hintf, hfltf⟩ := readBacksReadThenDecode
    simp only [List.mem_cons, List.not_mem_nil, or_false] at hx
    obtain rfl | rfl | rfl | rfl | rfl := hx
    · exact hchg.expansion hp fun r => exec_dms _ r hp
    · exact hints.expansion hp fun r => exec_dfl _ r hp
    · exact hflts.expansion hp fun r => exec_dfl _ r hp
    · exact hintf.expansion hp fun r => exec_dfl _ r hp
    · exact hfltf.expansion hp fun r => exec_dfl _ r hp

end Sys2Proof.Machine

/-! ## Errors

R211's table holds for the shapes: a response is offered by a command's last move, and each kind of move that can end
in an error is tied to the commands the table lists for it. -/

namespace Sys2Proof.Machine

variable {sh : Shape} {s t u : State} {g : Config} {i : Instr} {k : ErrorKind} {b : Byte}

/-! ### The kinds of the table (R211) -/

/-- The commands that validation turns away. -/
theorem mayRaise_of_validation (h : validation g i = some k) : mayRaise i k = true := by
  cases i <;> simp [validation] at h <;> rw [← h.2] <;> rfl

/-- The commands with a transaction. -/
theorem mayRaise_transportError (h : transactions i ≠ []) : mayRaise i .transportError = true := by
  cases i with
  | enc | dec | dfl | dms => exact absurd rfl h
  | _ => rfl

/-- The commands that read back. -/
theorem mayRaise_verificationFailed (h : transactions i = [.r, .w, .r]) : mayRaise i .verificationFailed = true := by
  cases i with
  | rmov | chgEn => rfl
  | _ => simp [transactions] at h

/-! ### The kinds of a shape -/

/-- The kinds a shape can end with: the one it is turned away by, a transport error if it has a transaction, and a
failed verification if it reads back. -/
def Shape.Raises (sh : Shape) (k : ErrorKind) : Prop :=
  sh = .reject k ∨ (k = .transportError ∧ sh.transactions ≠ []) ∨
    (k = .verificationFailed ∧ sh.transactions = [.r, .w, .r])

/-- A command's shape turns it away only by the kind its validation gives. -/
theorem validation_of_shapeOf_reject (h : shapeOf g i = .reject k) : validation g i = some k := by
  have hsh := shapeOf_validation g i
  cases hv : validation g i with
  | none => simp only [hv] at hsh; exact absurd h (hsh.2 k)
  | some x => simp only [hv] at hsh; cases hsh.symm.trans h; rfl

/-- The kinds of a command's shape are in the table. -/
theorem mayRaise_of_shapeOf (h : (shapeOf g i).Raises k) : mayRaise i k = true := by
  have hsame := (shapeOf_transactions g i).resolve_right
  rcases h with h | ⟨rfl, h⟩ | ⟨rfl, h⟩
  · exact mayRaise_of_validation (validation_of_shapeOf_reject h)
  · exact mayRaise_transportError (hsame h ▸ h)
  · exact mayRaise_verificationFailed (hsame (h ▸ List.cons_ne_nil _ _) ▸ h)

theorem Shape.transactions_ne_nil_of_waits {ph : Phase} (h : ph ∈ sh.waits) : sh.transactions ≠ [] := by
  rw [← List.length_pos_iff, Shape.transactions_length]
  exact List.length_pos_of_mem h

/-- The one error a shape's last answer can bring is a failed verification (R137). -/
theorem Shape.raises_of_verdict (h : (sh.verdict b).1 = .error k) : sh.Raises k := by
  cases sh with
  | verify a m =>
    cases hm : fullySet m b <;> simp [Shape.verdict, hm] at h
    exact .inr (.inr ⟨h.symm, rfl⟩)
  | _ => simp [Shape.verdict] at h

/-- A move into RESP offers OK or a kind of the shape. -/
theorem Shape.Move.response (h : sh.Move u t) (ht : t.phase = .resp) :
    ∃ st p, t.rsp = some (responseWord st p) ∧ ∀ k, st = .error k → sh.Raises k := by
  cases h with
  | respond => exact ⟨.ok, _, rfl, by simp⟩
  | @reject x hs => exact ⟨.error x, _, rfl, fun k hk => by cases hk; exact .inl hs⟩
  | start _ hn | goOn _ _ hn => exact absurd ht (Shape.ne_resp_of_waits (Shape.mem_waits_of_nextPhase hn))
  | fail hp =>
    exact ⟨.error .transportError, _, rfl,
      fun k hk => by cases hk; exact .inr (.inl ⟨rfl, Shape.transactions_ne_nil_of_waits hp⟩)⟩
  | finish => exact ⟨_, _, rfl, fun k hk => Shape.raises_of_verdict hk⟩

/-- A command that is in RESP after a run came there by a move, as none runs from RESP (R26). -/
theorem Shape.exists_last_move (h : sh.run s = .next t) (ht : t.phase = .resp) : ∃ u, sh.Move u t := by
  rcases (Shape.run_next h).cases_tail with rfl | ⟨u, -, hm⟩
  · have hfault : sh.run t = .fault .noTransition :=
      Shape.run_fault (by simp [ht]) fun hw => Shape.ne_resp_of_waits hw ht
    cases h.symm.trans hfault
  · exact ⟨u, hm⟩

/-! ### Responses in an error -/

/-- Settles O34: the response is that of the last move of the command's shape. -/
theorem commandsRaiseOnlyTheirKinds : Obligations.CommandsRaiseOnlyTheirKinds := by
  intro i s t h ht
  rw [exec_eq_run] at h
  obtain ⟨u, hm⟩ := Shape.exists_last_move h ht
  obtain ⟨st, p, hrsp, hkind⟩ := hm.response ht
  exact ⟨st, p, hrsp, fun k hk => mayRaise_of_shapeOf (hkind k hk)⟩

/-- Settles O35: validation fails exactly where the command's shape is to be turned away. -/
theorem validationComesBeforeTheTransport : Obligations.ValidationComesBeforeTheTransport :=
  fun _ _ _ hp hv => rejectedBy_of_validation hp hv

/-- Settles O33: an illegal word decodes to no command, and is turned away once accepted. -/
theorem illegalWordIsAnsweredIllegalCmd : Obligations.IllegalWordIsAnsweredIllegalCmd := by
  intro s w ws hw hr hp hc hill
  have hdecode : decode (s.accept w ws).cmd = none := (illegalWordsAreTheIllFormed w).2 hill
  have hword : responseWord (.error .illegalCmd) 0 = 0xF0000000#32 := by decide
  rw [step_accepts hw hr hp hc, runCommand_eq_run, State.shape_of_illegal hdecode, ← hword]
  exact rejectCommand_exec (s := s.accept w ws) rfl

end Sys2Proof.Machine

/-! ## Reset, and the answer it abandons -/

namespace Sys2Proof.Machine

variable {sh : Shape} {s t u : State}

/-! ### Moves that find no answer -/

/-- With no answer at hand a move leaves the transport's port as it is: it can start a transaction, but not end one. -/
theorem Shape.Move.keeps_answers_of_none (h : sh.Move s u) (ha : s.answers = []) :
    u.trspIn = s.trspIn ∧ u.abandoned = s.abandoned := by
  cases h with
  | respond | reject | start => exact ⟨rfl, rfl⟩
  | fail _ ha' | goOn _ ha' | finish _ ha' => cases ha.symm.trans ha'

theorem Shape.Moves.keeps_answers_of_none (h : sh.Moves s t) (ha : s.answers = []) :
    t.trspIn = s.trspIn ∧ t.abandoned = s.abandoned := by
  induction h with
  | refl => exact ⟨rfl, rfl⟩
  | @tail u _ _ hm ih =>
    obtain ⟨hin, hab⟩ := ih
    have hu : u.answers = [] := by rw [State.answers, hin, hab]; exact ha
    obtain ⟨hin', hab'⟩ := hm.keeps_answers_of_none hu
    exact ⟨hin'.trans hin, hab'.trans hab⟩

/-- A command that finds no answer leaves those that come later for the same requests (R241). -/
theorem Shape.Moves.answersAfter_of_none (h : sh.Moves s t) (ha : s.answers = []) (more : List TRsp) :
    t.answersAfter more = s.answersAfter more := by
  obtain ⟨hin, hab⟩ := h.keeps_answers_of_none ha
  rw [State.answersAfter_eq_drop, State.answersAfter_eq_drop, hin, hab]

/-! ### A step with a reset pending -/

/-- The step that finds a reset pending is the reset (log 15). -/
theorem eq_applyReset_of_step (h : step s = .next t) (hr : s.rstIn = true) : t = s.applyReset := by
  cases hw : s.cfg.wellFormed with
  | false => cases h.symm.trans (step_illFormed hw)
  | true => cases h.symm.trans (step_resets hw hr); rfl

/-- Settles O47: a reset drops one answer for an outstanding request (`State.applyReset_answersAfter`), and no move takes
an answer that has not come. -/
theorem abandonedAnswerIsIgnored : Obligations.AbandonedAnswerIsIgnored := by
  intro s t h more
  refine ⟨fun hr hq => ?_, fun hr hq => ?_, fun hr ha => ?_⟩
  · obtain ⟨q, hq⟩ := Option.isSome_iff_exists.1 hq
    rw [eq_applyReset_of_step h hr, State.applyReset_answersAfter, hq]
    rfl
  · rw [eq_applyReset_of_step h hr, State.applyReset_answersAfter, hq]
    rfl
  · cases step_next h with
    | resets hr' => cases hr.symm.trans hr'
    | waits | takes => rfl
    | @accepts w ws _ _ _ _ hm => exact hm.answersAfter_of_none (s := s.accept w ws) ha more
    | runs _ _ _ hm => exact hm.answersAfter_of_none ha more

/-- Settles O46: the step is `applyReset`, whose fields are as R240 says. -/
theorem resetEventAbandonsTheCommand : Obligations.ResetEventAbandonsTheCommand :=
  fun s hw hr => ⟨s.applyReset, step_resets hw hr, s.applyReset_phase, s.applyReset_rsp, s.applyReset_treq,
    s.applyReset_cfg, s.applyReset_rstIn, s.applyReset_trace, s.applyReset_cmdIn, s.applyReset_trspIn,
    s.applyReset_rspReady⟩

/-! ### The state after reset -/

theorem reset_cfg_wellFormed : State.reset.cfg.wellFormed = true := by decide

/-- Settles O49: REFCFG is well formed, the empty history stands at a free port, and no word is presented. -/
theorem resetStateIsIdleAndSafe : Obligations.ResetStateIsIdleAndSafe := by
  have hsafe : Safe State.reset := ⟨reset_cfg_wellFormed, coherent_idle rfl rfl rfl⟩
  have hfits : HistoryFits State.reset := ⟨.free, rfl, (fits_idle rfl).2 rfl⟩
  exact ⟨rfl, rfl, rfl, hsafe, hfits, step_idle_waits reset_cfg_wellFormed rfl rfl rfl⟩

end Sys2Proof.Machine
